-- ==== Sys2Proof/Word.lean ====
section
/-! DEFINITION. The value types of the hardware: Word, Byte, the 64-bit length, and a row of eight Words.

R12: a Word is an unsigned 32-bit value, a Byte an unsigned 8-bit value, the length counter an unsigned 64-bit value;
no value is signed. R13: `add32` is `+` of `BitVec 32` (modulo 2^32), AND, OR, XOR, NOT are `&&&`, `|||`, `^^^`, `~~~`,
`x >> n` is the logical `>>>`, and `<<<` drops the bits that leave the Word. -/

namespace Sys2Proof

/-- R12: an unsigned 32-bit value; bit 0 is the least significant. -/
abbrev Word := BitVec 32

/-- R12: an unsigned 8-bit value. -/
abbrev Byte := BitVec 8

/-- R12, R25: the total length counter's type. -/
abbrev BitLength := BitVec 64

/-- Eight Words: `H[0..7]` and `DIG[0..7]` (R21), and the working variables `a..h` (R26), `a` being `w0`. -/
structure Words8 where
  w0 : Word
  w1 : Word
  w2 : Word
  w3 : Word
  w4 : Word
  w5 : Word
  w6 : Word
  w7 : Word
  deriving DecidableEq, Repr

end Sys2Proof
end

