-- ==== Sys2Proof/Syntax.lean ====
section
/-! DEFINITION. The commands: one constructor per row of spec/opcode_table.json (R72). -/

namespace Sys2Proof

/-- A decoded command (R72, R74). Words that decode to ILLEGAL are no `Instr`; the decoder refuses them by name. -/
inductive Instr where
  /-- R152: no operation. -/
  | nop
  /-- R153: start a new stream. -/
  | init
  /-- R154: append `n` bytes, `n = NB + 1` (R73). -/
  | absorb (n : Nat)
  /-- R155: finalise the stream into DIGEST0..7. -/
  | final
  deriving DecidableEq, Repr

end Sys2Proof
end

