-- ==== Sys2Proof/WellFormed.lean ====
section
/-! DEFINITION. Which commands have an encoding. -/

namespace Sys2Proof

/-- R73: the byte count of an ABSORB is 1 to 4 ("No count of 0 exists"); the other commands have no operand. -/
def Instr.wf : Instr → Bool
  | .nop => true
  | .init => true
  | .absorb n => decide (1 ≤ n) && decide (n ≤ 4)
  | .final => true

/-- A command that some command word encodes. -/
abbrev WellFormed (i : Instr) : Prop := i.wf = true

end Sys2Proof
end

