-- ==== Sys2Proof/Decode.lean ====
section
/-! DEFINITION. The command word's fields (R71), the decoder (R74) and the encoder written from the same tables. -/

namespace Sys2Proof

/-- R71: `OP`, bits [3:0]. -/
def opField (v : Word) : BitVec 4 := v.extractLsb' 0 4

/-- R71: `NB`, bits [5:4]. -/
def nbField (v : Word) : BitVec 2 := v.extractLsb' 4 2

/-- R71: `RSVD`, bits [31:6]. -/
def rsvdField (v : Word) : BitVec 26 := v.extractLsb' 6 26

/-- R75: why a word is ILLEGAL. The hardware reports all three as ILLEGAL_CMD. -/
inductive Illegal where
  /-- A nonzero `RSVD`. -/
  | rsvdNonzero
  /-- An `OP` of 0x4 .. 0xF. -/
  | reservedOp
  /-- A nonzero `NB` with an `OP` other than ABSORB. -/
  | nbNonzero
  deriving DecidableEq, Repr

/-- R72, R75: the command without operand that `OP` names, `NB` being required to be 0. -/
def plainCommand (v : Word) (i : Instr) : Except Illegal Instr :=
  if nbField v = 0 then .ok i else .error .nbNonzero

/-- R74: decoding is total; a word that is no command is refused by name (R75). -/
def decode (v : Word) : Except Illegal Instr :=
  if rsvdField v ≠ 0 then .error .rsvdNonzero
  else if opField v = 0x0 then plainCommand v .nop
  else if opField v = 0x1 then plainCommand v .init
  else if opField v = 0x2 then .ok (.absorb ((nbField v).toNat + 1))
  else if opField v = 0x3 then plainCommand v .final
  else .error .reservedOp

/-- R71: the word with `RSVD` 0 and the two other fields as given. -/
def commandWord (nb : BitVec 2) (op : BitVec 4) : Word :=
  (nb.setWidth 32 <<< 4) ||| op.setWidth 32

/-- R72, R73: the command word of a well-formed command. An ABSORB of another count has no word by R73; here its NB field is
`n - 1` modulo 4 (DESIGN CHOICE, log 27). -/
def encode : Instr → Word
  | .nop => commandWord 0 0x0
  | .init => commandWord 0 0x1
  | .absorb n => commandWord (BitVec.ofNat 2 (n - 1)) 0x2
  | .final => commandWord 0 0x3

/-- The decoder on a word as spec/opcode_table.json numbers its bits. A command is one 32-bit register value (R70), so bit 0
of the table is bit 0 of the value written to CMD; bits from `nbits` up are 0, and no command is longer than 32 bits. -/
def decodeTableWord (nbits w : Nat) : Option Instr :=
  if nbits ≤ 32 then
    match decode (BitVec.ofNat 32 (w % 2 ^ nbits)) with
    | .ok i => some i
    | .error _ => none
  else none

end Sys2Proof
end

