-- ==== Sys2Proof/Machine/Expansion.lean ====
section
/-! DEFINITION. What R112 requires of `SCHED_EXPAND`, and the type of the expansions that meet it: the OPEN parameter of R10
ranges over that type. -/

namespace Sys2Proof.Machine

/-- R112: "a small mixing function over previously computed words": a formula that computes `W[i]` from `W[0..i-1]`. XOR, the
left rotation and the addition modulo 2^32 are the operations the rule names; with constants, AND and the right shift a formula
can express every function of the words (log 2). -/
inductive MixFormula where
  | word (j : Nat)
  | const (c : Word)
  | xor (a b : MixFormula)
  | add (a b : MixFormula)
  | rotl (n : Nat) (a : MixFormula)
  | and (a b : MixFormula)
  | shr (n : Nat) (a : MixFormula)
  deriving DecidableEq, Repr

/-- The value of a formula on the words computed so far. -/
def MixFormula.eval (w : List Word) : MixFormula → Word
  | .word j => w.getD j 0
  | .const c => c
  | .xor a b => a.eval w ^^^ b.eval w
  | .add a b => a.eval w + b.eval w
  | .rotl n a => (a.eval w).rotateLeft n
  | .and a b => a.eval w &&& b.eval w
  | .shr n a => a.eval w >>> n

/-- The formula has one of `W[0..i-1]` in it. -/
def MixFormula.readsWord (i : Nat) : MixFormula → Bool
  | .word j => decide (j < i)
  | .const _ => false
  | .xor a b => a.readsWord i || b.readsWord i
  | .add a b => a.readsWord i || b.readsWord i
  | .rotl _ a => a.readsWord i
  | .and a b => a.readsWord i || b.readsWord i
  | .shr _ a => a.readsWord i

/-- Some XOR in the formula combines two operands computed from words. -/
def MixFormula.hasXor (i : Nat) : MixFormula → Bool
  | .word _ => false
  | .const _ => false
  | .xor a b => (a.readsWord i && b.readsWord i) || a.hasXor i || b.hasXor i
  | .add a b => a.hasXor i || b.hasXor i
  | .rotl _ a => a.hasXor i
  | .and a b => a.hasXor i || b.hasXor i
  | .shr _ a => a.hasXor i

/-- Some modular addition in the formula combines two operands computed from words. -/
def MixFormula.hasAdd (i : Nat) : MixFormula → Bool
  | .word _ => false
  | .const _ => false
  | .xor a b => a.hasAdd i || b.hasAdd i
  | .add a b => (a.readsWord i && b.readsWord i) || a.hasAdd i || b.hasAdd i
  | .rotl _ a => a.hasAdd i
  | .and a b => a.hasAdd i || b.hasAdd i
  | .shr _ a => a.hasAdd i

/-- Some left rotation in the formula, by 1 to 31 bits, has an operand computed from words. -/
def MixFormula.hasRotl (i : Nat) : MixFormula → Bool
  | .word _ => false
  | .const _ => false
  | .xor a b => a.hasRotl i || b.hasRotl i
  | .add a b => a.hasRotl i || b.hasRotl i
  | .rotl n a => (decide (1 ≤ n) && decide (n ≤ 31) && a.readsWord i) || a.hasRotl i
  | .and a b => a.hasRotl i || b.hasRotl i
  | .shr _ a => a.hasRotl i

/-- R112: "at minimum combining two words via XOR, a left rotation, and a modular addition" (read as log 2 says). -/
def MixFormula.mixes (i : Nat) (e : MixFormula) : Bool := e.hasXor i && e.hasRotl i && e.hasAdd i

/-- R112: the requirement "MUST depend on at least W[i-15] and W[i-2]": for every round that expands, some change of that one
word changes the result. -/
def SchedDepends (f : Nat → List Word → Word) : Prop :=
  ∀ i, 16 ≤ i → i ≤ 63 → ∀ back, back = 15 ∨ back = 2 →
    ∃ (w : List Word) (x : Word), w.length = i ∧ f i (w.set (i - back) x) ≠ f i w

/-- A simple formula that meets R112. It shows that there are such formulas, and nothing else rests on it. -/
def sampleFormula (i : Nat) : MixFormula :=
  .add (.rotl 1 (.xor (.word (i - 15)) (.word (i - 2)))) (.word (i - 2))

theorem sampleFormula_mixes : ∀ i, 16 ≤ i → i ≤ 63 → (sampleFormula i).mixes i = true := by
  intro i h1 _
  have a15 : i - 15 < i := by omega
  have a2 : i - 2 < i := by omega
  simp [sampleFormula, MixFormula.mixes, MixFormula.hasXor, MixFormula.hasRotl, MixFormula.hasAdd, MixFormula.readsWord, a15, a2]

theorem sampleFormula_depends : SchedDepends fun i w => (sampleFormula i).eval w := by
  intro i h1 _ back hb
  refine ⟨List.replicate i 0, 1, by simp, ?_⟩
  have a15 : i - 15 < i := by omega
  have a2 : i - 2 < i := by omega
  have n15 : i - 15 ≠ i - 2 := by omega
  rcases hb with rfl | rfl <;>
    simp only [sampleFormula, MixFormula.eval, List.getD_eq_getElem?_getD, List.getElem?_set, List.length_replicate,
      List.getElem?_replicate, a15, a2, n15, n15.symm, if_true, if_false] <;> decide

/-- R10, R112: a legal `SCHED_EXPAND`: the formula of each round, which mixes the words before it, and which depends on
`W[i-15]` and on `W[i-2]`. That it is deterministic and reads only `i` and `W[0..i-1]` is said by `expand`'s type. -/
structure LegalExpansion where
  formula : Nat → MixFormula := sampleFormula
  mixes : ∀ i, 16 ≤ i → i ≤ 63 → (formula i).mixes i = true := by exact sampleFormula_mixes
  depends : SchedDepends (fun i w => (formula i).eval w) := by exact sampleFormula_depends
  deriving Inhabited

/-- R112: `SCHED_EXPAND(i, W[0..i-1])` of a legal expansion. -/
def LegalExpansion.expand (x : LegalExpansion) (i : Nat) (w : List Word) : Word := (x.formula i).eval w

end Sys2Proof.Machine
end

