-- ==== Sys2Proof/Config.lean ====
section
/-! DEFINITION. What an implementation fixes (the OPEN parameters of R10) and the free values.

Every constant here is opaque and has no body: nothing in Lean can evaluate it or prove a value of it. -/

namespace Sys2Proof

/-- Which values the OPEN parameters `K_TABLE` and `SCHED_EXPAND` take (R10, R11). `defaultProfile` is the default profile
of R11; `openProfile k` is any other implementation, number `k`, whose tables are the bodiless constants below. -/
inductive Profile where
  | defaultProfile
  | openProfile (k : Nat)
  deriving DecidableEq, Repr

/-- R129: `K_TABLE[i]` of the open implementation `k`: 64 Words that the spec does not give. -/
opaque Config.kTable (k i : Nat) : Word

/-- R10, R112: `SCHED_EXPAND` of the open implementation `k`: one of those that meet the requirements of R112, the spec
giving no formula (log 2). -/
opaque Config.schedExpand (k : Nat) : Machine.LegalExpansion

/-- R37: the Word that the draw number `draw` gives to a DIGEST read while DVALID = 0: any value, fresh at each read. -/
opaque Config.freeRead (draw : Nat) : Word

/-- R220: the Word that the reset of draw number `draw` leaves in `DIG[j]`: any value. -/
opaque Config.freeDigest (draw j : Nat) : Word

/-- R160: the `LEN` that `Update` leaves when its caller does not guarantee `LEN + 8*n < 2^64` for a string of `n` bytes: the
rule defines none. -/
opaque Config.freeLength (len : BitLength) (n : Nat) : BitLength

/-- R170: Word `j` of the digest of a message of 2^64 bits or more: the rule defines none, and R205 forbids giving `Pad` a
wrapped length. -/
opaque Config.freeLongDigest (p : Profile) (m : List Byte) (j : Nat) : Word

/-- R10, R29: `BASE` of instance `k` is word aligned, so it is four times this number. -/
opaque Config.baseWord (k : Nat) : Nat

end Sys2Proof
end

