-- ==== Sys2Proof/Machine/Operands.lean ====
section
/-! DEFINITION. Operand forms and byte orders: the DIN lanes of an ABSORB (R54, R73), the big-endian helpers of R14, and the
views of a row of eight Words. -/

namespace Sys2Proof

/-- `H[j]`, `DIG[j]` (R21): Word `j` of a row, `j = 0..7`; indexes above 7 do not occur and read as Word 7. -/
def Words8.get (x : Words8) (j : Nat) : Word :=
  match j with
  | 0 => x.w0
  | 1 => x.w1
  | 2 => x.w2
  | 3 => x.w3
  | 4 => x.w4
  | 5 => x.w5
  | 6 => x.w6
  | _ => x.w7

/-- The eight Words in state order. -/
def Words8.toList (x : Words8) : List Word := [x.w0, x.w1, x.w2, x.w3, x.w4, x.w5, x.w6, x.w7]

/-- The row whose Word `j` is `f j`. -/
def Words8.ofFun (f : Nat → Word) : Words8 := ⟨f 0, f 1, f 2, f 3, f 4, f 5, f 6, f 7⟩

/-- R126: the fold `State[j] = (State[j] + x[j]) mod 2^32`, Word by Word. -/
def Words8.addEach (x y : Words8) : Words8 :=
  ⟨x.w0 + y.w0, x.w1 + y.w1, x.w2 + y.w2, x.w3 + y.w3, x.w4 + y.w4, x.w5 + y.w5, x.w6 + y.w6, x.w7 + y.w7⟩

namespace Machine

/-- R14, R51: `BE32` of four bytes, the most significant first. -/
def be32 (b0 b1 b2 b3 : Byte) : Word :=
  BitVec.ofNat 32 (b0.toNat * 2 ^ 24 + b1.toNat * 2 ^ 16 + b2.toNat * 2 ^ 8 + b3.toNat)

/-- Byte lane `k` (0..3) of a Word, lane 0 the most significant: bits `[31-8k : 24-8k]` (R53, R54). -/
def byteLane (w : Word) (k : Nat) : Byte := w.extractLsb' (24 - 8 * k) 8

/-- R14: `BE32bytes`, the inverse of `BE32`. -/
def be32Bytes (w : Word) : List Byte := [byteLane w 0, byteLane w 1, byteLane w 2, byteLane w 3]

/-- R14, R52: `BE64bytes`, eight bytes, the most significant first. -/
def be64Bytes (l : BitLength) : List Byte :=
  [l.extractLsb' 56 8, l.extractLsb' 48 8, l.extractLsb' 40 8, l.extractLsb' 32 8,
   l.extractLsb' 24 8, l.extractLsb' 16 8, l.extractLsb' 8 8, l.extractLsb' 0 8]

/-- R53: the 32 digest bytes of eight Words, big-endian per Word, in state order. -/
def words8Bytes (x : Words8) : List Byte := x.toList.flatMap be32Bytes

/-- R54, R73: the operand bytes of an ABSORB of `n` bytes are the `n` most significant lanes of the latched DIN value. -/
def operandBytes (n : Nat) (d : Word) : List Byte := (be32Bytes d).take n

end Machine

end Sys2Proof
end

