-- ==== Sys2Proof/Machine/Scheduler.lean ====
section
/-! DEFINITION. The Scheduler (41_scheduler.md): one 64-byte block becomes the 64-word message schedule. -/

namespace Sys2Proof.Machine

/-- R120: right circular rotation, `(x >> n) | (x << (32 - n))` masked to 32 bits; `n` is in `1..31`. -/
def rotr (x : Word) (n : Nat) : Word := (x >>> n) ||| (x <<< (32 - n))

/-- R113: `sigma0` of the default profile. -/
def sigma0 (x : Word) : Word := rotr x 7 ^^^ rotr x 18 ^^^ (x >>> 3)

/-- R113: `sigma1` of the default profile. -/
def sigma1 (x : Word) : Word := rotr x 17 ^^^ rotr x 19 ^^^ (x >>> 10)

/-- R113: `SCHED_EXPAND` of the default profile. `w` holds `W[0..i-1]` and `i` is 16 or more, so every index is in range. -/
def defaultSchedExpand (i : Nat) (w : List Word) : Word :=
  sigma1 (w.getD (i - 2) 0) + w.getD (i - 7) 0 + sigma0 (w.getD (i - 15) 0) + w.getD (i - 16) 0

/-- R112: `SCHED_EXPAND` under a profile. -/
def schedExpand (p : Profile) (i : Nat) (w : List Word) : Word :=
  match p with
  | .defaultProfile => defaultSchedExpand i w
  | .openProfile k => (Config.schedExpand k).expand i w

/-- R111: `W[i] = BE32(block[4i .. 4i+4))`. -/
def blockWord (block : List Byte) (i : Nat) : Word :=
  be32 (block.getD (4 * i) 0) (block.getD (4 * i + 1) 0) (block.getD (4 * i + 2) 0) (block.getD (4 * i + 3) 0)

/-- R111: `W[0..15]` of a block of 64 bytes. -/
def loadWords (block : List Byte) : List Word := (List.range 16).map (blockWord block)

/-- R110: `fuel` more expanded words after `W[0 .. w.length-1]`, in order. -/
def expandWords (p : Profile) : Nat → List Word → List Word
  | 0, w => w
  | fuel + 1, w => expandWords p fuel (w ++ [schedExpand p w.length w])

/-- R110: `Schedule(block)`: the 16 loaded words and the 48 expanded ones. -/
def schedule (p : Profile) (block : List Byte) : List Word := expandWords p 48 (loadWords block)

end Sys2Proof.Machine
end

