-- ==== Sys2Proof/Machine/Compressor.lean ====
section
/-! DEFINITION. The Compressor (42_compressor.md): 64 rounds over the working variables, then the fold into the state. -/

namespace Sys2Proof.Machine

/-- R121: `S1(e)`. -/
def bigSigma1 (e : Word) : Word := rotr e 6 ^^^ rotr e 11 ^^^ rotr e 25

/-- R122: `ch(e, f, g)`: bit of `f` where `e` is 1, bit of `g` where it is 0. -/
def chooseBits (e f g : Word) : Word := (e &&& f) ^^^ (~~~e &&& g)

/-- R123: `S0(a)`. -/
def bigSigma0 (a : Word) : Word := rotr a 2 ^^^ rotr a 13 ^^^ rotr a 22

/-- R124: `maj(a, b, c)`: the majority of the three bits. -/
def majority (a b c : Word) : Word := (a &&& b) ^^^ (a &&& c) ^^^ (b &&& c)

/-- R125: `temp1` of round `i` with the schedule word `wi`. -/
def roundTemp1 (p : Profile) (i : Nat) (v : Words8) (wi : Word) : Word :=
  v.w7 + bigSigma1 v.w4 + chooseBits v.w4 v.w5 v.w6 + kTable p i + wi

/-- R125: `temp2` of a round. -/
def roundTemp2 (v : Words8) : Word := bigSigma0 v.w0 + majority v.w0 v.w1 v.w2

/-- R125: `Round(i, (a..h), Wi)`. All eight assignments use the values from before the round. -/
def roundStep (p : Profile) (i : Nat) (v : Words8) (wi : Word) : Words8 where
  w0 := roundTemp1 p i v wi + roundTemp2 v
  w1 := v.w0
  w2 := v.w1
  w3 := v.w2
  w4 := v.w3 + roundTemp1 p i v wi
  w5 := v.w4
  w6 := v.w5
  w7 := v.w6

/-- R131: the rounds from number `i` on, one per schedule word, each on the working variables of the round before. -/
def rounds (p : Profile) : Nat → List Word → Words8 → Words8
  | _, [], v => v
  | i, wi :: ws, v => rounds p (i + 1) ws (roundStep p i v wi)

/-- R126: `Compress(Hin, W)`: the rounds over `W[0..63]` from `Hin`, then the fold. -/
def compress (p : Profile) (hin : Words8) (w : List Word) : Words8 :=
  hin.addEach (rounds p 0 w hin)

/-- R133: `ProcessBlock(Hin, block) = Compress(Hin, Schedule(block))`. -/
def processBlock (p : Profile) (hin : Words8) (block : List Byte) : Words8 :=
  compress p hin (schedule p block)

end Sys2Proof.Machine
end

