-- ==== Sys2Proof/Machine/Padder.lean ====
section
/-! DEFINITION. The Padder (40_padder.md): Merkle-Damgard padding of the stream's tail. -/

namespace Sys2Proof.Machine

/-- R100 step 2: `while len(P) mod 64 != 56: P <- P ++ [0x00]`. Each pass adds one byte, so 64 passes reach the exit. -/
def zeroFill : Nat → List Byte → List Byte
  | 0, p => p
  | fuel + 1, p => if p.length % 64 = 56 then p else zeroFill fuel (p ++ [0x00])

/-- R100: `Pad(tail, L)`: the tail, the byte 0x80, zeros up to 56 modulo 64, and the big-endian bit length. -/
def pad (tail : List Byte) (l : BitLength) : List Byte := zeroFill 64 (tail ++ [0x80]) ++ be64Bytes l

end Sys2Proof.Machine
end

