-- ==== Sys2Proof/Machine/Digest.lean ====
section
/-! DEFINITION. The functional view of the Digest Engine (43_commands.md sections 3 and 5): Update, Final, Digest. -/

namespace Sys2Proof.Machine

/-- The stream state `(H, BUF, LEN)` of R160. -/
structure Stream where
  h : Words8
  buf : List Byte
  len : BitLength
  deriving DecidableEq, Repr

/-- R162: `Init = (IV, empty, 0)`. -/
def initStream : Stream := ⟨iv, [], 0⟩

/-- R160: `while len(B) >= 64`: the full blocks at the front of `b` are compressed into `h`, in order. Each pass takes 64
bytes away, so `b.length` passes reach the exit. -/
def drainBlocks (p : Profile) : Nat → Words8 → List Byte → Words8 × List Byte
  | 0, h, b => (h, b)
  | fuel + 1, h, b =>
    if 64 ≤ b.length then drainBlocks p fuel (processBlock p h (b.take 64)) (b.drop 64) else (h, b)

/-- R160: `LEN + 8*n`. Outside the caller's guarantee `LEN + 8*n < 2^64` the rule defines nothing and the length is a free value:
no wrapped length comes out (R205, log 25). -/
def addLength (len : BitLength) (n : Nat) : BitLength :=
  if len.toNat + 8 * n < 2 ^ 64 then len + BitVec.ofNat 64 (8 * n) else Config.freeLength len n

/-- R160: `Update(st, s)`, for a byte string of any length. -/
def update (p : Profile) (st : Stream) (s : List Byte) : Stream :=
  let r := drainBlocks p (st.buf ++ s).length st.h (st.buf ++ s)
  ⟨r.1, r.2, addLength st.len s.length⟩

/-- R161: `for q = 0, 64 while q < len(P)`: `n` blocks of 64 bytes, one after another (R133). -/
def foldBlocks (p : Profile) : Nat → Words8 → List Byte → Words8
  | 0, h, _ => h
  | n + 1, h, b => foldBlocks p n (processBlock p h (b.take 64)) (b.drop 64)

/-- R161: `Final((H, BUF, LEN))`: the one or two padded blocks compressed against a copy of `H`. -/
def finalize (p : Profile) (st : Stream) : Words8 :=
  foldBlocks p ((pad st.buf st.len).length / 64) st.h (pad st.buf st.len)

/-- R170: the eight Words of the digest of a whole message with `8*len(m) < 2^64`. Of a longer one the rule defines no digest: a
free value, so that `Pad` never gets a wrapped length (R205, log 25). -/
def digestWords (p : Profile) (m : List Byte) : Words8 :=
  if 8 * m.length < 2 ^ 64 then finalize p (update p initStream m) else Words8.ofFun (Config.freeLongDigest p m)

/-- R170: `Digest(m)`, 32 bytes. -/
def digest (p : Profile) (m : List Byte) : List Byte := words8Bytes (digestWords p m)

end Sys2Proof.Machine
end

