-- ==== Sys2Proof/Machine/State.lean ====
section
/-! DEFINITION. The state of one engine instance and of its host, the refusals, and reset. -/

namespace Sys2Proof.Machine

/-- A command that can be in flight: INIT, ABSORB n or FINAL. "NOP is never in flight" (R32), so it is not among them. -/
inductive Job where
  | init
  | absorb (n : Nat)
  | final
  deriving DecidableEq, Repr

/-- R21: the pair that `INFL` holds: the command and the DIN value latched at its acceptance (R150). -/
structure InFlight where
  job : Job
  latched : Word
  deriving DecidableEq, Repr

/-- R20: what a host step does at an offset. -/
inductive AccessKind where
  | read
  | write (v : Word)
  deriving DecidableEq, Repr

/-- One access of the host: a byte offset in the window (R50), the access width in bits (R58), and its kind. -/
structure Access where
  off : Nat
  bits : Nat
  kind : AccessKind
  deriving DecidableEq, Repr

/-- One line of the host's pending program: an access, or POLL, which reads STATUS again and again until BUSY is 0 (R76). -/
inductive HostOp where
  | access (a : Access)
  | poll
  deriving DecidableEq, Repr

/-- Who moves next (R20): the owning host, the core, the external reset event, or a master that does not own the instance. -/
inductive Turn where
  | host
  | core
  | reset
  | secondHost
  deriving DecidableEq, Repr

/-- R21: the architectural state of one instance, then the model's own fields (INVENTORY.md, State). -/
structure State where
  /-- R22: `H[0..7]`, the digest state register file. -/
  h : Words8
  /-- R24: `BUF`, the message buffer, at most 63 bytes between steps. -/
  buf : List Byte
  /-- R25: `LEN`, the total length counter in bits. -/
  len : BitLength
  /-- R36: `DIN`, the data-in holding register. -/
  din : Word
  /-- R37: `DIG[0..7]`, the digest output registers. -/
  dig : Words8
  /-- R33: `DVALID`. -/
  dvalid : Bool
  /-- R34: `ERR`, the sticky error and lock flag. -/
  err : Bool
  /-- R35: `ERRCODE`, the code of the first error. -/
  errcode : BitVec 4
  /-- R32: `INFL`, the command in flight. -/
  infl : Option InFlight
  /-- The model's own: which values the OPEN parameters take (log 1). No step writes it. -/
  profile : Profile
  /-- The model's own: the accesses the host has still to make, in program order (log 6). -/
  host : List HostOp
  /-- The model's own: the interleaving still to come, the draw `LATENCY` (log 5). -/
  turns : List Turn
  /-- The model's own: the words the host's reads returned, newest first (log 6). -/
  reads : List Word
  /-- The model's own: how many free values have been drawn (log 4). -/
  draws : Nat
  deriving DecidableEq, Repr

/-- Reasons the machine stops with a fault. There are none: "No behaviour of this hardware is treated as `fault` or `stuck`"
(93_implementation_defined.md, part 2). -/
inductive Fault where
  deriving DecidableEq, Repr

/-- Reasons an event has no step. Each is safe: the model stops where the spec gives no behaviour. -/
inductive Refusal where
  /-- Raised by an arm of `exec` whose command has no meaning yet; no arm does so. Safe. -/
  | notModelled (mnemonic : String)
  /-- R58: raised by `performAccess` for an access that is not 32 bits wide. Safe. -/
  | accessWidth (bits : Nat)
  /-- R58: raised by `performAccess` for a 32-bit access at an offset with `off[1:0] != 0`. Safe. -/
  | misaligned (off : Nat)
  /-- R58: raised by `performAccess` (and by `System.step`) for an access outside the window. Safe. -/
  | outsideWindow (addr : Nat)
  /-- R65: raised by `step` (and by `System.step`) when a master that does not own the instance accesses it. Safe. -/
  | secondHost
  /-- R39: raised by `System.step` for an event that names an instance the row does not have. Safe. -/
  | noInstance (k : Nat)
  deriving DecidableEq, Repr

/-- R220: every field of `S` after a reset, under profile `p` and with the unspecified `DIG` holding `d`; nothing pending. -/
def State.resetWith (p : Profile) (d : Words8) : State where
  h := iv
  buf := []
  len := 0
  din := 0x00000000
  dig := d
  dvalid := false
  err := false
  errcode := 0
  infl := none
  profile := p
  host := []
  turns := []
  reads := []
  draws := 0

/-- The machine right after reset. `DIG` is unspecified by R220 and the profile is OPEN by R10: zero and the default profile
are this model's choices (DESIGN CHOICE, logs 1 and 3). -/
def State.reset : State := State.resetWith .defaultProfile ⟨0, 0, 0, 0, 0, 0, 0, 0⟩

end Sys2Proof.Machine
end

