-- ==== Sys2Proof/Machine/Flags.lean ====
section
/-! DEFINITION. The STATUS register's fields (R31 to R35) and the error codes (R201). -/

namespace Sys2Proof.Machine

/-- R21: `S.BUSY` is shorthand for `S.INFL != none`. -/
def State.busy (s : State) : Bool := s.infl.isSome

/-- R201: the three errors. -/
inductive ErrorKind where
  | illegalCmd
  | cmdWhileBusy
  | lenOverflow
  deriving DecidableEq, Repr

/-- R201: the ERRCODE of an error; 0 is NONE and 4 to 15 are never produced. -/
def errorCode (e : ErrorKind) : BitVec 4 :=
  match e with
  | .illegalCmd => 1
  | .cmdWhileBusy => 2
  | .lenOverflow => 3

/-- A one-bit field as a Word. -/
def flagWord (b : Bool) : Word := (BitVec.ofBool b).setWidth 32

/-- R31: `RegRead(0x04)`: ERRCODE in [7:4], ERR in [2], DVALID in [1], BUSY in [0], every other bit 0. -/
def statusWord (s : State) : Word :=
  (s.errcode.setWidth 32 <<< 4) ||| (flagWord s.err <<< 2) ||| (flagWord s.dvalid <<< 1) ||| flagWord s.busy

/-- R150 check 5, R205: the ABSORB of `n` bytes would make `LEN` reach 2^64. -/
def lenWouldOverflow (n : Nat) (s : State) : Bool := decide (2 ^ 64 ≤ s.len.toNat + 8 * n)

end Sys2Proof.Machine
end

