-- ==== Sys2Proof/Machine/Ops.lean ====
section
/-! DEFINITION. The shared operations: raising an error, accepting a command, the three completion parts, the register reads,
the reset event. The block masters no memory (R50), so there is no memory operation. -/

namespace Sys2Proof.Machine

/-- The stream state `(H, BUF, LEN)` of R160 inside `S`. -/
def State.stream (s : State) : Stream := ⟨s.h, s.buf, s.len⟩

/-- `(S.H, S.BUF, S.LEN) <- st`. -/
def State.setStream (s : State) (st : Stream) : State := { s with h := st.h, buf := st.buf, len := st.len }

/-- R202: `raise Error(code)`: the first error is recorded and locks the engine (R203), a later one changes nothing. This is
all of taking an error: nothing else is saved and no control is transferred (R207). -/
def raiseError (e : ErrorKind) (s : State) : State :=
  if s.err then s else { s with err := true, errcode := errorCode e }

/-- R153, R208: INIT's acceptance leaves the locked state. -/
def clearError (s : State) : State := { s with err := false, errcode := 0 }

/-- R150, after the checks: the command is in flight with the DIN value latched, and DVALID is 0. -/
def acceptJob (j : Job) (s : State) : State := { s with dvalid := false, infl := some ⟨j, s.din⟩ }

/-- R153: `InitEffect()`. -/
def initEffect (s : State) : State := s.setStream initStream

/-- R154: `AbsorbEffect(n, d)`. -/
def absorbEffect (n : Nat) (d : Word) (s : State) : State :=
  s.setStream (update s.profile s.stream (operandBytes n d))

/-- R155: `FinalEffect()`. -/
def finalEffect (s : State) : State := { s with dig := finalize s.profile s.stream, dvalid := true }

/-- R151: the completion part of a command in flight. -/
def jobEffect (f : InFlight) (s : State) : State :=
  match f.job with
  | .init => initEffect s
  | .absorb n => absorbEffect n f.latched s
  | .final => finalEffect s

/-- R151: `Complete()`, the core's only step: the whole completion part, then `INFL <- none`. While nothing is in flight the
step is not enabled and nothing happens (R20). -/
def complete (s : State) : State :=
  match s.infl with
  | none => s
  | some f => { jobEffect f s with infl := none }

/-- R56: `RegRead(off)` for a word-aligned offset in the window: the word returned. A DIGEST read while DVALID = 0 returns the
free value of the present draw (R37). -/
def regValue (off : Nat) (s : State) : Word :=
  if off = 0x04 then statusWord s
  else if off = 0x08 then s.din
  else if 0x10 ≤ off ∧ off < 0x30 then
    if s.dvalid then s.dig.get ((off - 0x10) / 4) else Config.freeRead s.draws
  else 0x00000000

/-- R37: whether a read of this offset draws a free value. -/
def readDraws (off : Nat) (s : State) : Bool := decide (0x10 ≤ off) && decide (off < 0x30) && !s.dvalid

/-- R56: a read hands its word to the host and changes no field of `S`; the model's counter passes a drawn value. -/
def regRead (off : Nat) (s : State) : State :=
  { s with
    reads := regValue off s :: s.reads
    draws := if readDraws off s then s.draws + 1 else s.draws }

/-- R36: `S.DIN <- v`. -/
def setDin (v : Word) (s : State) : State := { s with din := v }

/-- The free values drawn so far are `n` (log 4). -/
def setDraws (n : Nat) (s : State) : State := { s with draws := n }

/-- The host's pending program loses its first line. -/
def popHost (s : State) : State := { s with host := s.host.tail }

/-- The interleaving loses its first entry. -/
def popTurn (s : State) : State := { s with turns := s.turns.tail }

/-- R220, R221: the reset event: every field of `S` as reset leaves it, `DIG` any value, a command in flight discarded. The
host's program, its reads and the interleaving are outside the block and stay (log 11). -/
def resetEvent (s : State) : State :=
  { State.resetWith s.profile (Words8.ofFun (Config.freeDigest s.draws)) with
    host := s.host
    turns := s.turns
    reads := s.reads
    draws := s.draws + 1 }

end Sys2Proof.Machine
end

