-- ==== Sys2Proof/Machine/Commands.lean ====
section
/-! DEFINITION. The meaning of each command at its acceptance (43_commands.md R150 with R152 to R155): one definition per
command. The completion part of an accepted command is `complete` (R151), the core's own step. -/

namespace Sys2Proof.Machine

/-- R152: NOP, check 1 of R150: dropped, never an error. -/
def execNop (s : State) : Host.Outcome State Fault Refusal := .next s

/-- R153: INIT: an error while busy (check 2), else accepted, even while locked (check 4), with ERR and ERRCODE cleared. -/
def execInit (s : State) : Host.Outcome State Fault Refusal :=
  if s.busy then .next (raiseError .cmdWhileBusy s)
  else .next (acceptJob .init (clearError s))

/-- R154: ABSORB n: an error while busy (check 2), dropped while locked (check 4), an error when the length counter would
overflow (check 5), else accepted. -/
def execAbsorb (n : Nat) (s : State) : Host.Outcome State Fault Refusal :=
  if s.busy then .next (raiseError .cmdWhileBusy s)
  else if s.err then .next s
  else if lenWouldOverflow n s then .next (raiseError .lenOverflow s)
  else .next (acceptJob (.absorb n) s)

/-- R155: FINAL: an error while busy (check 2), dropped while locked (check 4), else accepted. -/
def execFinal (s : State) : Host.Outcome State Fault Refusal :=
  if s.busy then .next (raiseError .cmdWhileBusy s)
  else if s.err then .next s
  else .next (acceptJob .final s)

end Sys2Proof.Machine
end

