-- ==== Sys2Proof/Machine/Bus.lean ====
section
/-! DEFINITION. The host's side of the window: command acceptance, register writes, the contract of an access, and one host
step. -/

namespace Sys2Proof.Machine

/-- R150: `AcceptCommand(v)`. A word that decodes runs its command's meaning; an ILLEGAL one raises CMD_WHILE_BUSY while busy
(check 2, before check 3) and ILLEGAL_CMD otherwise, locked or not. -/
def acceptCommand (v : Word) (s : State) : Host.Outcome State Fault Refusal :=
  match decode v with
  | .ok i => exec i s
  | .error _ => .next (raiseError (if s.busy then .cmdWhileBusy else .illegalCmd) s)

/-- R57: `RegWrite(off, v)` for a word-aligned offset in the window. -/
def regWrite (off : Nat) (v : Word) (s : State) : Host.Outcome State Fault Refusal :=
  if off = 0x00 then acceptCommand v s
  else if off = 0x08 then .next (setDin v s)
  else .next s

/-- R56 to R58: one host access. Only an aligned 32-bit access in the window has a step. -/
def performAccess (a : Access) (s : State) : Host.Outcome State Fault Refusal :=
  if a.bits ≠ 32 then .refused (.accessWidth a.bits)
  else if 0x40 ≤ a.off then .refused (.outsideWindow a.off)
  else if a.off % 4 ≠ 0 then .refused (.misaligned a.off)
  else
    match a.kind with
    | .read => .next (regRead a.off s)
    | .write v => regWrite a.off v s

/-- R58: an access inside the interface contract. -/
def Access.inContract (a : Access) : Bool :=
  decide (a.bits = 32) && decide (a.off < 0x40) && decide (a.off % 4 = 0)

/-- R58 on a line of the host's program; POLL reads STATUS and is always in contract. -/
def HostOp.inContract (o : HostOp) : Bool :=
  match o with
  | .access a => a.inContract
  | .poll => true

/-- R20: one host step: the next access of its program. POLL (R76) reads STATUS and stays until BUSY was read as 0. A host
with nothing left to do does nothing. -/
def hostStep (s : State) : Host.Outcome State Fault Refusal :=
  match s.host with
  | [] => .next s
  | .access a :: _ => performAccess a (popHost s)
  | .poll :: _ => .next (regRead 0x04 (if s.busy then s else popHost s))

/-- R20: the event that a turn stands for. -/
def takeTurn (t : Turn) (s : State) : Host.Outcome State Fault Refusal :=
  match t with
  | .host => hostStep s
  | .core => .next (complete s)
  | .reset => .next (resetEvent s)
  | .secondHost => .refused .secondHost

/-- Who moves next: the interleaving's first entry; when it has run out, a command in flight completes (the fairness of R228)
and otherwise the host moves. -/
def nextTurn (s : State) : Turn :=
  match s.turns with
  | t :: _ => t
  | [] => if s.busy then .core else .host

/-- The write of a command word to CMD (R30), as the host's program holds it. -/
def commandWrite (v : Word) : HostOp := .access ⟨0x00, 32, .write v⟩

/-- The host's next access is the write of `v` to CMD, and the host moves next. -/
def State.withCommand (s : State) (v : Word) : State :=
  { s with host := commandWrite v :: s.host, turns := .host :: s.turns }

end Sys2Proof.Machine
end

