-- ==== Sys2Proof/Machine/HostProgram.lean ====
section
/-! DEFINITION. Host programs: the assembler lines of R76 with their text form, and the pseudo-instructions of R77. -/

namespace Sys2Proof.Machine

/-- R76: the register names. -/
inductive RegName where
  | cmd
  | status
  | din
  | digest (j : Nat)
  deriving DecidableEq, Repr

/-- R29: the offset of a register; `j` is 0 to 7, and R76 has no other DIGESTj (DESIGN CHOICE for a greater `j`, log 27). -/
def regOffset (r : RegName) : Nat :=
  match r with
  | .cmd => 0x00
  | .status => 0x04
  | .din => 0x08
  | .digest j => 0x10 + 4 * j

/-- R76: one line. `wrCmd` is `WR CMD, NOP` / `INIT` / `FINAL` / `ABSORB n`; `wr` is a write of a raw value to any register;
the name that `RD` binds is the position of its word in `reads`. -/
inductive AsmLine where
  | wrCmd (i : Instr)
  | wr (r : RegName) (v : Word)
  | rd (r : RegName)
  | poll
  deriving DecidableEq, Repr

/-- R76: the access that a line stands for. -/
def assembleLine (l : AsmLine) : HostOp :=
  match l with
  | .wrCmd i => commandWrite (encode i)
  | .wr r v => .access ⟨regOffset r, 32, .write v⟩
  | .rd r => .access ⟨regOffset r, 32, .read⟩
  | .poll => .poll

/-- The host program of a list of lines. -/
def assemble (ls : List AsmLine) : List HostOp := ls.map assembleLine

/-- R77: `b0<<24 OR b1<<16 OR b2<<8 OR b3`, missing bytes as 0; bytes after the fourth are dropped (DESIGN CHOICE, log 27). -/
def packBytes (bs : List Byte) : Word := be32 (bs.getD 0 0) (bs.getD 1 0) (bs.getD 2 0) (bs.getD 3 0)

/-- R77: `FEED b0 [b1 [b2 [b3]]]`, of 1 to 4 bytes. R73 and R77 have no FEED of none or of five and more; what this function
gives there is the model's own (DESIGN CHOICE, log 27). -/
def feedLines (bs : List Byte) : List AsmLine := [.wr .din (packBytes bs), .wrCmd (.absorb bs.length), .poll]

/-- R77: `FEEDW imm32`. -/
def feedWordLines (v : Word) : List AsmLine := [.wr .din v, .wrCmd (.absorb 4), .poll]

/-- R77: `START`. -/
def startLines : List AsmLine := [.wrCmd .init, .poll]

/-- R77: the chunks of `UPDATE s`: four bytes each, the last one shorter. -/
def fourByteChunks : List Byte → List (List Byte)
  | [] => []
  | b0 :: b1 :: b2 :: b3 :: rest => [b0, b1, b2, b3] :: fourByteChunks rest
  | b :: rest => [b :: rest]

/-- R77: "`UPDATE` may split `s` into chunks of any sizes from 1 to 4"; chunks of other sizes are log 27's. -/
def updateChunkLines (chunks : List (List Byte)) : List AsmLine := chunks.flatMap feedLines

/-- R77: `UPDATE s`. -/
def updateLines (s : List Byte) : List AsmLine := updateChunkLines (fourByteChunks s)

/-- R77: the eight reads `RD DIGEST0` to `RD DIGEST7`. -/
def readDigestLines : List AsmLine := (List.range 8).map fun j => .rd (.digest j)

/-- R77: `DIGEST -> d0..d7`. -/
def digestLines : List AsmLine := [.wrCmd .final, .poll] ++ readDigestLines

/-- R177: a one-shot hash of a message in given chunks of 1 to 4 bytes. -/
def hashChunkLines (chunks : List (List Byte)) : List AsmLine := startLines ++ updateChunkLines chunks ++ digestLines

/-- R77: `HASH s -> d0..d7`. -/
def hashLines (s : List Byte) : List AsmLine := startLines ++ updateLines s ++ digestLines

/-- R76: "A comment runs from `#` to the end of the line." -/
def stripComment (t : List Char) : List Char := t.takeWhile (· != '#')

/-- The words of a line; a comma is a word of its own. `cur` is the word being read, its last letter first. -/
def splitWords : List Char → List Char → List (List Char)
  | cur, [] => if cur = [] then [] else [cur.reverse]
  | cur, c :: cs =>
    if c = ' ' || c = '\t' then (if cur = [] then [] else [cur.reverse]) ++ splitWords [] cs
    else if c = ',' then (if cur = [] then [] else [cur.reverse]) ++ [','] :: splitWords [] cs
    else splitWords (c :: cur) cs

/-- The value of a digit in a base up to sixteen. -/
def digitValue (c : Char) : Option Nat :=
  if '0' ≤ c ∧ c ≤ '9' then some (c.toNat - 48)
  else if 'a' ≤ c ∧ c ≤ 'f' then some (c.toNat - 87)
  else if 'A' ≤ c ∧ c ≤ 'F' then some (c.toNat - 55)
  else none

/-- The number that digits stand for in a base, `acc` being the value of those already read. -/
def readDigits (base : Nat) : Nat → List Char → Option Nat
  | acc, [] => some acc
  | acc, c :: cs =>
    match digitValue c with
    | some d => if d < base then readDigits base (acc * base + d) cs else none
    | none => none

/-- R76: "Numbers are decimal or `0x` hexadecimal." -/
def readNumber (t : List Char) : Option Nat :=
  match t with
  | '0' :: 'x' :: c :: cs => readDigits 16 0 (c :: cs)
  | c :: cs => readDigits 10 0 (c :: cs)
  | [] => none

/-- R76: `imm32`. -/
def readWord (t : List Char) : Option Word :=
  match readNumber t with
  | some n => if n < 2 ^ 32 then some (BitVec.ofNat 32 n) else none
  | none => none

/-- R76: `<reg>`. -/
def readReg (t : List Char) : Option RegName :=
  match t with
  | ['C', 'M', 'D'] => some .cmd
  | ['S', 'T', 'A', 'T', 'U', 'S'] => some .status
  | ['D', 'I', 'N'] => some .din
  | ['D', 'I', 'G', 'E', 'S', 'T', c] => if '0' ≤ c ∧ c ≤ '7' then some (.digest (c.toNat - 48)) else none
  | _ => none

/-- R76: the mnemonic forms of `WR CMD`. -/
def readCommand (ts : List (List Char)) : Option Instr :=
  match ts with
  | [['N', 'O', 'P']] => some .nop
  | [['I', 'N', 'I', 'T']] => some .init
  | [['F', 'I', 'N', 'A', 'L']] => some .final
  | [['A', 'B', 'S', 'O', 'R', 'B'], n] =>
    match readNumber n with
    | some k => if (Instr.absorb k).wf then some (.absorb k) else none
    | none => none
  | _ => none

/-- R76: the words of a line as a line; `none` where the table has no such line. -/
def readWords (ts : List (List Char)) : Option AsmLine :=
  match ts with
  | [['P', 'O', 'L', 'L']] => some .poll
  | [['R', 'D'], r, ['-', '>'], _] => (readReg r).map .rd
  | ['W', 'R'] :: r :: [','] :: rest =>
    match readReg r, readCommand rest, rest with
    | some .cmd, some i, _ => some (.wrCmd i)
    | some reg, none, [v] => (readWord v).map (.wr reg)
    | _, _, _ => none
  | _ => none

/-- R76 (what the rule leaves open of the text is log 28's): one line of text: no access for an empty or comment line, one otherwise; `none` where it is not in the table. -/
def readLine (t : List Char) : Option (List AsmLine) :=
  match splitWords [] (stripComment t) with
  | [] => some []
  | ts => (readWords ts).map fun l => [l]

end Sys2Proof.Machine
end

