-- ==== Sys2Proof/Machine/HostSide.lean ====
section
/-! DEFINITION. The host-side functions of R171 and R172: `hexdigest` and the one-shot helpers. The hardware has none of them;
they say what a host makes of the digest it reads (R8). -/

namespace Sys2Proof.Machine

/-- R171: one lowercase hexadecimal digit. -/
def hexDigit (n : Nat) : Char := if n < 10 then Char.ofNat (48 + n) else Char.ofNat (87 + n)

/-- R171: a byte as two digits, high nibble first. -/
def hexByte (b : Byte) : List Char := [hexDigit (b.toNat / 16), hexDigit (b.toNat % 16)]

/-- R171: `Hex(d)`. -/
def hex (d : List Byte) : List Char := d.flatMap hexByte

/-- R172: `hash_bytes(m)`: the one-shot digest of `m` in hexadecimal. -/
def hashBytes (p : Profile) (m : List Byte) : List Char := hex (digest p m)

/-- R172: the UTF-8 encoding of a text (Lean's own encoder of one character, log 20). -/
def utf8Bytes (t : List Char) : List Byte := t.flatMap fun c => (String.utf8EncodeChar c).map UInt8.toBitVec

/-- R172: `hash_string(t)`. -/
def hashString (p : Profile) (t : List Char) : List Char := hashBytes p (utf8Bytes t)

end Sys2Proof.Machine
end

