-- ==== Sys2Proof/Machine/System.lean ====
section
/-! DEFINITION. Several instances behind their register windows (R39, R213): each instance is one `State`, each has its own
window at its own `BASE` (R10, R29), and an event reaches exactly one of them. -/

namespace Sys2Proof.Machine

/-- R10, R29: `BASE` of instance `k`, word aligned. -/
def windowBase (k : Nat) : Nat := 4 * Config.baseWord k

/-- R50: the platform byte address is one of the 0x40 of instance `k`'s window. -/
def inWindow (addr k : Nat) : Bool := decide (windowBase k ≤ addr) && decide (addr < windowBase k + 0x40)

/-- What the platform delivers next: an access at a platform address, the completion of instance `k`'s command, a reset of
instance `k`, or an access to instance `k` by a master that does not own it. -/
inductive SysEvent where
  | access (addr bits : Nat) (kind : AccessKind)
  | core (k : Nat)
  | reset (k : Nat)
  | secondHost (k : Nat)
  deriving DecidableEq, Repr

/-- R10: `N_INSTANCES` instances, "at least 1", and the events still to come. -/
structure System where
  first : State
  others : List State
  events : List SysEvent
  /-- How many free values the row has drawn, all its instances together: "a fresh draw at each read" (R37, log 4). An instance
  of a row draws with this counter and not with one of its own. -/
  draws : Nat
  deriving DecidableEq, Repr

/-- The row of instances, number 0 first. -/
def System.instances (y : System) : List State := y.first :: y.others

/-- The row with instance `k` replaced, and with the draws that this instance has made counted. -/
def System.setInstance (k : Nat) (s : State) (y : System) : System :=
  match k with
  | 0 => { y with first := s, draws := s.draws }
  | j + 1 => { y with others := y.others.set j s, draws := s.draws }

/-- The list of events loses its first entry. -/
def System.popEvent (y : System) : System := { y with events := y.events.tail }

/-- R213: every instance starts in its reset state, all under the one shared profile (R129); `dig` and `digs` are the
unspecified `DIG` values, one per instance. -/
def System.resetWith (p : Profile) (dig : Words8) (digs : List Words8) : System :=
  ⟨State.resetWith p dig, digs.map (State.resetWith p), [], 0⟩

/-- R213: "A host tells instances apart by their `BASE` addresses": the one instance of `n` whose window holds the address. -/
def routeAccess (n addr : Nat) : Option Nat :=
  match (List.range n).filter (inWindow addr) with
  | [k] => some k
  | _ => none

/-- R39: an event acts on instance `k` alone, which draws its free values from the row's counter; every other instance stays as
it is. -/
def System.actOn (k : Nat) (f : State → Host.Outcome State Fault Refusal) (y : System) :
    Host.Outcome System Fault Refusal :=
  match y.instances[k]? with
  | none => .refused (.noInstance k)
  | some s =>
    match f (setDraws y.draws s) with
    | .next s' => .next (y.setInstance k s')
    | .fault r => .fault r
    | .refused r => .refused r

/-- The instance that an event reaches, `n` being `N_INSTANCES`. -/
def eventTarget (n : Nat) (e : SysEvent) : Option Nat :=
  match e with
  | .access addr _ _ => routeAccess n addr
  | .core k => some k
  | .reset k => some k
  | .secondHost k => some k

/-- What an event does to the instance `k` it reaches. -/
def eventAction (k : Nat) (e : SysEvent) (s : State) : Host.Outcome State Fault Refusal :=
  match e with
  | .access addr bits kind => performAccess ⟨addr - windowBase k, bits, kind⟩ s
  | .core _ => takeTurn .core s
  | .reset _ => takeTurn .reset s
  | .secondHost _ => takeTurn .secondHost s

/-- The address of an event that reaches no window. -/
def eventAddress (e : SysEvent) : Nat :=
  match e with
  | .access addr _ _ => addr
  | _ => 0

/-- What happens next: the first of the events; when they have run out, the first instance with a command in flight completes
it (R151: "A `Complete()` step is never skipped"; the fairness of R228 for every instance of the row, DESIGN CHOICE as to the
order, log 26). -/
def System.nextEvent (y : System) : Option SysEvent :=
  match y.events with
  | e :: _ => some e
  | [] => (y.instances.findIdx? State.busy).map .core

/-- R39: one step of the row: its next event acts on the one instance it reaches. With no event left and nothing in flight
nothing happens. -/
def System.step (y : System) : Host.Outcome System Fault Refusal :=
  match y.nextEvent with
  | none => .next y
  | some e =>
    match eventTarget y.instances.length e with
    | none => .refused (.outsideWindow (eventAddress e))
    | some k => System.actOn k (eventAction k e) y.popEvent

/-- R58, R65 on an event of a row of `n` instances: it reaches one of them, by an access inside the contract if by an access. -/
def SysEvent.inContract (n : Nat) (e : SysEvent) : Bool :=
  match e with
  | .access addr bits kind =>
    match routeAccess n addr with
    | some k => (⟨addr - windowBase k, bits, kind⟩ : Access).inContract
    | none => false
  | .core k => decide (k < n)
  | .reset k => decide (k < n)
  | .secondHost _ => false

/-- The row as a machine of its own, from the reset of R213. -/
def rowCore (p : Profile) (dig : Words8) (digs : List Words8) : Host.Core where
  State := System
  Fault := Fault
  Refusal := Refusal
  step := System.step
  reset := System.resetWith p dig digs

end Sys2Proof.Machine
end

