-- ==== Sys2Proof/Safety.lean ====
section
/-! DEFINITION. What holds of every state that a run can reach: the invariants of R24, R25, R33 to R35 and R73, and the meaning
of the stream state and of a valid digest (R33, R162, R175). -/

namespace Sys2Proof.Machine

/-- R73, R150 check 5, R205: an ABSORB in flight carries 1 to 4 bytes, and the length counter has room for them. -/
def State.JobLegal (s : State) : Prop :=
  ∀ n d, s.infl = some ⟨.absorb n, d⟩ → 1 ≤ n ∧ n ≤ 4 ∧ s.len.toNat + 8 * n < 2 ^ 64

/-- The stream state is that of the message `m`: `(H, BUF, LEN) = Update(Init, m)`, and `m` is short enough to be counted. -/
def State.StreamIs (s : State) (m : List Byte) : Prop :=
  8 * m.length < 2 ^ 64 ∧ s.stream = update s.profile initStream m

/-- The register invariants of one instance. -/
structure State.Inv (s : State) : Prop where
  /-- R24: `len(S.BUF) <= 63`. -/
  bufShort : s.buf.length ≤ 63
  /-- R25: `S.LEN mod 8 = 0`. -/
  lenBytes : s.len.toNat % 8 = 0
  /-- R25: `S.LEN / 8 mod 64 = len(S.BUF)`. -/
  lenBuf : s.len.toNat / 8 % 64 = s.buf.length
  /-- R33: `S.BUSY = 1` implies `S.DVALID = 0`. -/
  busyNotValid : s.busy = true → s.dvalid = false
  /-- R31, R34, R35: ERRCODE is 0 exactly when ERR is 0. -/
  errCode : s.err = false ↔ s.errcode = 0
  /-- R35: values 4 to 15 are never produced. -/
  codeLegal : s.errcode.toNat ≤ 3
  /-- The command in flight passed its checks. -/
  jobLegal : s.JobLegal

/-- R33, R170: some message, counted without overflow, is the stream; a command in flight passed its checks; and a valid `DIG`
holds the eight digest Words of that very message. -/
def State.Genuine (s : State) : Prop :=
  ∃ m : List Byte, s.StreamIs m ∧ s.JobLegal ∧ (s.busy = true → s.dvalid = false) ∧
    (s.dvalid = true → s.dig = digestWords s.profile m)

/-- Every instance of a row meets the register invariants. -/
def System.Inv (y : System) : Prop := ∀ s ∈ y.instances, s.Inv

end Sys2Proof.Machine
end

