-- ==== Sys2Proof/Certificates/Slice0/Obligations.lean ====
section
/-! DEFINITION. The statements for the provers. Each docstring names the rules of spec/ that the statement formalises. -/

open Sys2Proof Sys2Proof.Machine

/-! ### Encoding -/

/-- R74: the decoder is the pseudocode of R74, for every 32-bit word. -/
def Obligations.DecodeFollowsThePseudocode : Prop :=
  ∀ v : Word,
    (v = 0x00000000 → decode v = .ok .nop) ∧
    (v = 0x00000001 → decode v = .ok .init) ∧
    (v.extractLsb' 6 26 = 0 → v.extractLsb' 0 4 = 0x2 → decode v = .ok (.absorb ((v.extractLsb' 4 2).toNat + 1))) ∧
    (v = 0x00000003 → decode v = .ok .final) ∧
    (v ≠ 0x00000000 → v ≠ 0x00000001 → ¬(v.extractLsb' 6 26 = 0 ∧ v.extractLsb' 0 4 = 0x2) → v ≠ 0x00000003 →
      ∃ r, decode v = .error r) ∧
    ((∃ i, decode v = .ok i) ↔
      v ∈ ([0x00000000, 0x00000001, 0x00000002, 0x00000012, 0x00000022, 0x00000032, 0x00000003] : List Word))

/-- R72 to R74: a word decodes to a command exactly when it is the encoding of that command, and what decodes is well formed:
every legal word has one meaning and every well-formed command one word. -/
def Obligations.EncodeAndDecodeAreInverse : Prop :=
  (∀ (i : Instr) (v : Word), WellFormed i → (decode v = .ok i ↔ v = encode i)) ∧
  (∀ (i : Instr) (v : Word), decode v = .ok i → WellFormed i)

/-- R72 and the encodings of spec/opcode_table.json, word by word: a sanity statement. -/
def Obligations.TableWordsDecodeToTheirRows : Prop :=
  decodeTableWord 32 0b00000000000000000000000000000000 = some .nop ∧
  decodeTableWord 32 0b00000000000000000000000000000001 = some .init ∧
  decodeTableWord 32 0b00000000000000000000000000000010 = some (.absorb 1) ∧
  decodeTableWord 32 0b00000000000000000000000000010010 = some (.absorb 2) ∧
  decodeTableWord 32 0b00000000000000000000000000100010 = some (.absorb 3) ∧
  decodeTableWord 32 0b00000000000000000000000000110010 = some (.absorb 4) ∧
  decodeTableWord 32 0b00000000000000000000000000000011 = some .final ∧
  decodeTableWord 32 0b00000000000000000000000000010001 = none ∧
  decodeTableWord 32 0b00000000000000000000000001000010 = none

/-- R75: a word is ILLEGAL exactly for the three causes, and writing one to CMD while not busy raises ILLEGAL_CMD (code 1): it
is recorded if it is the first error, and nothing else changes. NOP is exactly the word 0. -/
def Obligations.IllegalWordsRaiseIllegalCmd : Prop :=
  ∀ v : Word,
    ((∃ r, decode v = .error r) ↔
      (4 ≤ (v.extractLsb' 0 4).toNat ∨ v.extractLsb' 6 26 ≠ 0 ∨ (v.extractLsb' 4 2 ≠ 0 ∧ v.extractLsb' 0 4 ≠ 0x2))) ∧
    (decode v = .ok .nop ↔ v = 0x00000000) ∧
    ∀ (s : State) (r : Illegal), decode v = .error r → s.infl = none →
      regWrite 0x00 v s = .next (if s.err then s else { s with err := true, errcode := 1 })

/-! ### Acceptance and errors -/

/-- R150: the write of any word to CMD, check by check in the order of R150, with the whole next state of every case. -/
def Obligations.CommandAcceptanceFollowsItsChecks : Prop :=
  ∀ (v : Word) (s : State),
    (decode v = .ok .nop → regWrite 0x00 v s = .next s) ∧
    (decode v ≠ .ok .nop → s.infl ≠ none →
      regWrite 0x00 v s = .next (if s.err then s else { s with err := true, errcode := 2 })) ∧
    (∀ r, decode v = .error r → s.infl = none →
      regWrite 0x00 v s = .next (if s.err then s else { s with err := true, errcode := 1 })) ∧
    (∀ i, decode v = .ok i → i ≠ .nop → i ≠ .init → s.infl = none → s.err = true → regWrite 0x00 v s = .next s) ∧
    (∀ n, decode v = .ok (.absorb n) → s.infl = none → s.err = false → 2 ^ 64 ≤ s.len.toNat + 8 * n →
      regWrite 0x00 v s = .next { s with err := true, errcode := 3 }) ∧
    (decode v = .ok .init → s.infl = none →
      regWrite 0x00 v s =
        .next { s with dvalid := false, err := false, errcode := 0, infl := some ⟨.init, s.din⟩ }) ∧
    (∀ n, decode v = .ok (.absorb n) → s.infl = none → s.err = false → s.len.toNat + 8 * n < 2 ^ 64 →
      regWrite 0x00 v s = .next { s with dvalid := false, infl := some ⟨.absorb n, s.din⟩ }) ∧
    (decode v = .ok .final → s.infl = none → s.err = false →
      regWrite 0x00 v s = .next { s with dvalid := false, infl := some ⟨.final, s.din⟩ })

/-- R203, R208: while ERR is 1 no write to CMD other than INIT changes anything at all, busy or not; and INIT, when nothing is
in flight, is accepted and clears ERR and ERRCODE. -/
def Obligations.LockedEngineTakesOnlyInit : Prop :=
  ∀ (v : Word) (s : State), s.err = true →
    (decode v ≠ .ok .init → regWrite 0x00 v s = .next s) ∧
    (decode v = .ok .init → s.infl = none →
      ∃ t, regWrite 0x00 v s = .next t ∧ t.err = false ∧ t.errcode = 0 ∧ t.infl = some ⟨.init, s.din⟩ ∧
        statusWord t = 0x00000001)

/-- R209: an access of the host while a command is in flight leaves it in flight with the DIN value it latched, and its
completion writes what it would have written without that access. -/
def Obligations.HostCannotDisturbCommandInFlight : Prop :=
  ∀ (a : Access) (s t : State), s.infl ≠ none → performAccess a s = .next t →
    t.infl = s.infl ∧
    (complete t).h = (complete s).h ∧ (complete t).buf = (complete s).buf ∧ (complete t).len = (complete s).len ∧
    (complete t).dig = (complete s).dig ∧ (complete t).dvalid = (complete s).dvalid ∧ (complete t).infl = none

/-- R201, R208: ERR and ERRCODE are written by nothing but a host write to CMD (an error while ERR was 0, or INIT accepted
while nothing is in flight) and a reset. -/
def Obligations.OnlyCommandWritesAndResetChangeTheError : Prop :=
  ∀ s t : State, step s = .next t → (t.err ≠ s.err ∨ t.errcode ≠ s.errcode) →
    nextTurn s = .reset ∨
    (nextTurn s = .host ∧ ∃ v, s.host.head? = some (commandWrite v) ∧
      ((s.err = false ∧ t.err = true ∧
          ((t.errcode = 1 ∧ s.infl = none ∧ ∃ r, decode v = .error r) ∨
           (t.errcode = 2 ∧ s.infl ≠ none ∧ decode v ≠ .ok .nop) ∨
           (t.errcode = 3 ∧ s.infl = none ∧ ∃ n, decode v = .ok (.absorb n) ∧ 2 ^ 64 ≤ s.len.toNat + 8 * n))) ∨
       (decode v = .ok .init ∧ s.infl = none ∧ t.err = false ∧ t.errcode = 0)))

/-! ### The four commands -/

/-- R152: NOP does nothing in every state, busy or locked; its word is 0 alone, and OP 0 with any other bit set is ILLEGAL. -/
def Obligations.NopChangesNothing : Prop :=
  (∀ s : State, exec .nop s = .next s ∧ regWrite 0x00 0x00000000 s = .next s) ∧
  (∀ v : Word, v.extractLsb' 0 4 = 0 → v ≠ 0x00000000 → ∃ r, decode v = .error r)

/-- R153: INIT, written while nothing is in flight, is accepted in every such state, and its completion starts a new stream;
DIN and DIG keep their values. The two whole states are given, so every field not named is unchanged. -/
def Obligations.InitStartsANewStream : Prop :=
  ∀ s : State, s.infl = none →
    ∃ t, exec .init s = .next t ∧
      t = { s with dvalid := false, err := false, errcode := 0, infl := some ⟨.init, s.din⟩ } ∧
      complete t = { s with dvalid := false, err := false, errcode := 0, infl := none, h := iv, buf := [], len := 0 }

/-- R154: ABSORB n, written while nothing is in flight, not locked and with room in the counter, is accepted with DIN latched,
and its completion appends the n top bytes of DIN: a block is compressed exactly when the buffer reaches 64 bytes, and 0 to 3
bytes then stay. The two whole states are given, so every field not named is unchanged. -/
def Obligations.AbsorbAppendsTheOperandBytes : Prop :=
  ∀ (n : Nat) (s : State), 1 ≤ n → n ≤ 4 → s.buf.length ≤ 63 → s.infl = none → s.err = false →
    s.len.toNat + 8 * n < 2 ^ 64 →
    ∃ t, exec (.absorb n) s = .next t ∧
      t = { s with dvalid := false, infl := some ⟨.absorb n, s.din⟩ } ∧
      (s.buf.length + n < 64 →
        complete t =
          { s with dvalid := false, infl := none, buf := s.buf ++ operandBytes n s.din,
                   len := s.len + BitVec.ofNat 64 (8 * n) }) ∧
      (64 ≤ s.buf.length + n →
        complete t =
          { s with dvalid := false, infl := none,
                   h := processBlock s.profile s.h ((s.buf ++ operandBytes n s.din).take 64),
                   buf := (s.buf ++ operandBytes n s.din).drop 64, len := s.len + BitVec.ofNat 64 (8 * n) } ∧
        (complete t).buf.length = s.buf.length + n - 64)

/-- R155: FINAL, written while nothing is in flight and not locked, is accepted, and its completion writes DIG and DVALID and
nothing of the stream: one padded block against a copy of H when the buffer holds at most 55 bytes, two otherwise. -/
def Obligations.FinalWritesTheDigest : Prop :=
  ∀ s : State, s.buf.length ≤ 63 → s.infl = none → s.err = false →
    ∃ t, exec .final s = .next t ∧
      t = { s with dvalid := false, infl := some ⟨.final, s.din⟩ } ∧
      complete t = { s with dvalid := true, infl := none, dig := finalize s.profile s.stream } ∧
      (s.buf.length ≤ 55 → finalize s.profile s.stream = processBlock s.profile s.h (pad s.buf s.len)) ∧
      (56 ≤ s.buf.length →
        finalize s.profile s.stream =
          processBlock s.profile (processBlock s.profile s.h ((pad s.buf s.len).take 64)) ((pad s.buf s.len).drop 64))

/-- R163: FINAL is repeatable: one FINAL is accepted and its completion writes the digest and nothing of the stream; a second one
is then accepted too (DVALID is 0 and the command is in flight), and its completion leaves exactly the same state, the digest
included. -/
def Obligations.FinalIsRepeatable : Prop :=
  ∀ s : State, s.infl = none → s.err = false →
    ∃ a b, exec .final s = .next a ∧ a = { s with dvalid := false, infl := some ⟨.final, s.din⟩ } ∧
      (complete a).dvalid = true ∧ (complete a).dig = finalize s.profile s.stream ∧ (complete a).stream = s.stream ∧
      exec .final (complete a) = .next b ∧ b = { complete a with dvalid := false, infl := some ⟨.final, s.din⟩ } ∧
      complete b = complete a

/-- R164: ABSORB after FINAL continues the same stream: with the operand bytes `m1` and `m2` of two ABSORBs, the FINAL after
both writes `Final` of the stream extended by `m1 ++ m2`, whatever the FINAL between them. -/
def Obligations.AbsorbAfterFinalContinues : Prop :=
  ∀ (n1 n2 : Nat) (s : State) (d2 : Word), 1 ≤ n1 → n1 ≤ 4 → 1 ≤ n2 → n2 ≤ 4 → s.infl = none → s.err = false →
    s.len.toNat + 8 * (n1 + n2) < 2 ^ 64 →
    ∃ a b c e, exec (.absorb n1) s = .next a ∧ exec .final (complete a) = .next b ∧
      exec (.absorb n2) (setDin d2 (complete b)) = .next c ∧ exec .final (complete c) = .next e ∧
      (complete e).err = false ∧ (complete e).dvalid = true ∧
      (complete e).dig =
        finalize s.profile (update s.profile s.stream (operandBytes n1 s.din ++ operandBytes n2 d2))

/-- R150 (its last sentences): whichever command `exec` runs, well formed or not, it answers a next state and changes at most
DVALID, ERR, ERRCODE and INFL: the stream, DIN, DIG and everything outside the block are unchanged. -/
def Obligations.ExecFrame : Prop :=
  ∀ (i : Instr) (s : State), ∃ t, exec i s = .next t ∧
    t.h = s.h ∧ t.buf = s.buf ∧ t.len = s.len ∧ t.din = s.din ∧ t.dig = s.dig ∧
    t.profile = s.profile ∧ t.host = s.host ∧ t.turns = s.turns ∧ t.reads = s.reads ∧ t.draws = s.draws

/-- R151 to R155: what a completion leaves alone. It clears INFL; it never writes DIN, ERR or ERRCODE; only FINAL writes DIG
and DVALID, and FINAL writes nothing of the stream. -/
def Obligations.CompletionFrame : Prop :=
  ∀ s : State,
    (complete s).infl = none ∧ (complete s).din = s.din ∧ (complete s).err = s.err ∧ (complete s).errcode = s.errcode ∧
    (complete s).profile = s.profile ∧ (complete s).host = s.host ∧ (complete s).turns = s.turns ∧
    (complete s).reads = s.reads ∧ (complete s).draws = s.draws ∧
    ((∀ d, s.infl ≠ some ⟨.final, d⟩) → (complete s).dig = s.dig ∧ (complete s).dvalid = s.dvalid) ∧
    (∀ d, s.infl = some ⟨.final, d⟩ →
      (complete s).h = s.h ∧ (complete s).buf = s.buf ∧ (complete s).len = s.len ∧ (complete s).dvalid = true ∧
      (complete s).dig = finalize s.profile s.stream) ∧
    (s.infl = none → complete s = s)

/-! ### The datapath -/

/-- R101: the padded length and layout for every tail: one block up to 55 bytes, two from 56 to 63. -/
def Obligations.PaddingLayout : Prop :=
  ∀ (tail : List Byte) (l : BitLength),
    (tail.length ≤ 55 →
      pad tail l = tail ++ [0x80] ++ List.replicate (55 - tail.length) 0x00 ++ be64Bytes l ∧
      (pad tail l).length = 64) ∧
    (56 ≤ tail.length → tail.length ≤ 63 →
      pad tail l =
        (tail ++ [0x80] ++ List.replicate (63 - tail.length) 0x00) ++ (List.replicate 56 0x00 ++ be64Bytes l) ∧
      (tail ++ [0x80] ++ List.replicate (63 - tail.length) (0x00 : Byte)).length = 64 ∧ (pad tail l).length = 128)

/-- R103: the padding of the empty message is one block whose words are 0x80000000 and fifteen zeros. -/
def Obligations.EmptyMessagePadsToOneBlock : Prop :=
  pad [] 0 = [0x80] ++ List.replicate 55 0x00 ++ List.replicate 8 0x00 ∧
  loadWords (pad [] 0) = 0x80000000 :: List.replicate 15 0x00000000

/-- R105: the padded stream of every message is a nonzero number of whole blocks, and how many, whatever the 64-bit length
written into its suffix. -/
def Obligations.PaddedStreamIsWholeBlocks : Prop :=
  ∀ (m : List Byte) (l : BitLength),
    (m.take (64 * (m.length / 64)) ++ pad (m.drop (64 * (m.length / 64))) l).length =
      64 * (m.length / 64 + 1 + if 56 ≤ m.length % 64 then 1 else 0)

/-- R14, R51, R52: the byte-order helpers. `BE32bytes` and `BE32` are inverse, and the bytes of `BE64bytes` weigh 2^56 down
to 1. -/
def Obligations.BigEndianHelpers : Prop :=
  (∀ w : Word, be32 (byteLane w 0) (byteLane w 1) (byteLane w 2) (byteLane w 3) = w) ∧
  (∀ b0 b1 b2 b3 : Byte, be32Bytes (be32 b0 b1 b2 b3) = [b0, b1, b2, b3]) ∧
  (∀ l : BitLength, (be64Bytes l).foldl (fun n b => n * 256 + b.toNat) 0 = l.toNat ∧ (be64Bytes l).length = 8)

/-- R110: for every profile and block, the schedule has exactly 64 words; the first 16 are the block's big-endian words, and
word i from 16 on is SCHED_EXPAND of i and of exactly the words before it. -/
def Obligations.ScheduleExpandsTheBlock : Prop :=
  ∀ (p : Profile) (block : List Byte), block.length = 64 →
    (schedule p block).length = 64 ∧
    (∀ i, i < 16 →
      (schedule p block)[i]? =
        some (be32 (block.getD (4 * i) 0) (block.getD (4 * i + 1) 0) (block.getD (4 * i + 2) 0)
          (block.getD (4 * i + 3) 0))) ∧
    (∀ i, 16 ≤ i → i < 64 → (schedule p block)[i]? = some (schedExpand p i ((schedule p block).take i)))

/-- R113 (with R112): the default expansion depends on W[i-15] and on W[i-2] in every round, its right rotations are left
rotations, and it is the formula of R113. -/
def Obligations.DefaultExpansionMeetsItsRequirements : Prop :=
  SchedDepends (schedExpand .defaultProfile) ∧
  (∀ (x : Word) (n : Nat), 0 < n → n < 32 → rotr x n = x.rotateLeft (32 - n)) ∧
  (∀ (i : Nat) (w : List Word), schedExpand .defaultProfile i w =
    ((rotr (w.getD (i - 2) 0) 17 ^^^ rotr (w.getD (i - 2) 0) 19 ^^^ (w.getD (i - 2) 0 >>> 10)) + w.getD (i - 7) 0 +
      (rotr (w.getD (i - 15) 0) 7 ^^^ rotr (w.getD (i - 15) 0) 18 ^^^ (w.getD (i - 15) 0 >>> 3)) + w.getD (i - 16) 0))

/-- R115: the schedule's corner cases. -/
def Obligations.ScheduleCornerCases : Prop :=
  schedule .defaultProfile (List.replicate 64 0x00) = List.replicate 64 0x00000000 ∧
  (schedule .defaultProfile (List.replicate 64 0xFF))[16]? = some 0x203FFFFC ∧
  (schedule .defaultProfile (List.replicate 64 0xFF))[17]? = some 0x203FFFFC ∧
  (∀ (p q : Profile) (block : List Byte), (schedule p block).take 16 = (schedule q block).take 16)

/-- R120: `rotr(x, n)` is the source's formula "(x >> n) | (x << (32-n))" on 32 bits, its bit k is bit (k + n) mod 32 of x, and
the formula with n = 0 gives x. -/
def Obligations.RotateRightMovesBits : Prop :=
  ∀ x : Word, rotr x 0 = x ∧
    (∀ n, n ≤ 31 → rotr x n = (x >>> n) ||| (x <<< (32 - n))) ∧
    ∀ n, 1 ≤ n → n ≤ 31 → ∀ k, k < 32 → (rotr x n).getLsbD k = x.getLsbD ((k + n) % 32)

/-- R122, R124: the two formulas; bit by bit, `ch` selects by its first operand and `maj` is the majority of the three bits. -/
def Obligations.ChooseAndMajorityBitwise : Prop :=
  (∀ e f g : Word, chooseBits e f g = (e &&& f) ^^^ (~~~e &&& g)) ∧
  (∀ a b c : Word, majority a b c = (a &&& b) ^^^ (a &&& c) ^^^ (b &&& c)) ∧
  (∀ (e f g : Word) (k : Nat), k < 32 →
    (chooseBits e f g).getLsbD k = if e.getLsbD k then f.getLsbD k else g.getLsbD k) ∧
  (∀ (a b c : Word) (k : Nat), k < 32 →
    ((majority a b c).getLsbD k = true ↔
      2 ≤ (a.getLsbD k).toNat + (b.getLsbD k).toNat + (c.getLsbD k).toNat)) ∧
  (∀ f g : Word, chooseBits 0xFFFFFFFF f g = f ∧ chooseBits 0 f g = g) ∧
  (∀ x y : Word, majority x x y = x)

/-- R125: a round, with the source's shift written in its own sequential order: "h=g, g=f, f=e, e=(d+temp1), d=c, c=b, b=a,
a=(temp1+temp2)", every sum modulo 2^32. -/
def Obligations.RoundFollowsTheSourceShift : Prop :=
  ∀ (p : Profile) (i : Nat) (a b c d e f g h w : Word),
    roundStep p i ⟨a, b, c, d, e, f, g, h⟩ w =
      let temp1 := h + (rotr e 6 ^^^ rotr e 11 ^^^ rotr e 25) + ((e &&& f) ^^^ (~~~e &&& g)) + kTable p i + w
      let temp2 := (rotr a 2 ^^^ rotr a 13 ^^^ rotr a 22) + ((a &&& b) ^^^ (a &&& c) ^^^ (b &&& c))
      let h := g
      let g := f
      let f := e
      let e := d + temp1
      let d := c
      let c := b
      let b := a
      let a := temp1 + temp2
      ⟨a, b, c, d, e, f, g, h⟩

/-- R126: `Compress` of a schedule of 64 words is the fold, over i = 0..63, of `Round(i, .., W[i])` from Hin, added to Hin word
by word. -/
def Obligations.CompressRunsSixtyFourRounds : Prop :=
  ∀ (p : Profile) (hin : Words8) (w : List Word), w.length = 64 →
    ∀ j, j < 8 →
      (compress p hin w).get j =
        hin.get j + ((List.range 64).foldl (fun v i => roundStep p i v (w.getD i 0)) hin).get j

/-- R128: `IV[j]` is the integer square root of `p_j * 2^64`, modulo 2^32, for the first eight primes. -/
def Obligations.InitialStateFromSquareRoots : Prop :=
  ∀ j, j < 8 → ∃ r p : Nat, ([2, 3, 5, 7, 11, 13, 17, 19] : List Nat)[j]? = some p ∧
    r * r ≤ p * 2 ^ 64 ∧ p * 2 ^ 64 < (r + 1) * (r + 1) ∧ iv.get j = BitVec.ofNat 32 (r % 2 ^ 32)

/-- R130: `K_TABLE[i]` of the default profile is the first 32 fractional bits of the cube root of the prime number i, for the
first 64 primes. -/
def Obligations.DefaultRoundConstantsFromCubeRoots : Prop :=
  defaultKTable.length = 64 ∧
  ((List.range 312).filter fun n => decide n.Prime).length = 64 ∧
  ∀ i, i < 64 → ∃ r p : Nat, ((List.range 312).filter fun n => decide n.Prime)[i]? = some p ∧
    r ^ 3 ≤ p * 2 ^ 96 ∧ p * 2 ^ 96 < (r + 1) ^ 3 ∧ kTable .defaultProfile i = BitVec.ofNat 32 (r % 2 ^ 32)

/-- R160: `Update` in closed form, for a byte string of any length: the full blocks of BUF ++ s are compressed in order and the
rest stays; under the caller's guarantee `LEN + 8*len(s) < 2^64` LEN grows, as a number, by 8 bits a byte; and the empty string
changes nothing. -/
def Obligations.UpdateConsumesFullBlocks : Prop :=
  ∀ (p : Profile) (st : Stream) (s : List Byte),
    (update p st s).h = foldBlocks p ((st.buf ++ s).length / 64) st.h (st.buf ++ s) ∧
    (update p st s).buf = (st.buf ++ s).drop (64 * ((st.buf ++ s).length / 64)) ∧
    (st.len.toNat + 8 * s.length < 2 ^ 64 → (update p st s).len.toNat = st.len.toNat + 8 * s.length) ∧
    (st.buf.length ≤ 63 → update p st [] = st)

/-- R175, under the caller's guarantee of R160: chunk invariance, for two strings and for any list of chunks; and H and BUF do
not depend on the chunks even without the guarantee. -/
def Obligations.ChunkingDoesNotMatter : Prop :=
  (∀ (p : Profile) (st : Stream) (s1 s2 : List Byte),
    (update p (update p st s1) s2).h = (update p st (s1 ++ s2)).h ∧
    (update p (update p st s1) s2).buf = (update p st (s1 ++ s2)).buf ∧
    (st.len.toNat + 8 * (s1.length + s2.length) < 2 ^ 64 →
      update p (update p st s1) s2 = update p st (s1 ++ s2))) ∧
  (∀ (p : Profile) (chunks : List (List Byte)), 8 * chunks.flatten.length < 2 ^ 64 →
    chunks.foldl (update p) initStream = update p initStream chunks.flatten)

/-- R170, R53: the digest is 32 bytes, and for every message with `8*len(m) < 2^64` byte 4j + k is bits [31-8k : 24-8k] of the
word j of `Final(Update(Init, m))`. -/
def Obligations.DigestSerialisation : Prop :=
  ∀ (p : Profile) (m : List Byte), (digest p m).length = 32 ∧
    (8 * m.length < 2 ^ 64 →
      ∀ j k, j < 8 → k < 4 →
        (digest p m)[4 * j + k]? =
          some (((finalize p (update p initStream m)).get j).extractLsb' (24 - 8 * k) 8))

/-- R54, R73: the operand bytes of an ABSORB of n bytes are the n top lanes of DIN in order, the low lanes do not matter, and
a four-byte ABSORB at a stream position that is a multiple of 4 becomes exactly that schedule word. -/
def Obligations.DinLanesAreBigEndian : Prop :=
  (∀ (n : Nat) (d : Word), n ≤ 4 → (operandBytes n d).length = n ∧
    ∀ k, k < n → (operandBytes n d)[k]? = some (d.extractLsb' (24 - 8 * k) 8)) ∧
  (∀ (n : Nat) (d d' : Word), n ≤ 4 → d >>> (32 - 8 * n) = d' >>> (32 - 8 * n) →
    operandBytes n d = operandBytes n d') ∧
  (∀ (before after : List Byte) (i : Nat) (v : Word), i < 16 → before.length = 4 * i →
    (loadWords (before ++ operandBytes 4 v ++ after))[i]? = some v)

/-! ### The register window -/

/-- R31: every bit of STATUS, what a read of it returns, and that a write to it is ignored. -/
def Obligations.StatusRegisterFields : Prop :=
  ∀ s : State,
    (statusWord s).getLsbD 0 = s.infl.isSome ∧ (statusWord s).getLsbD 1 = s.dvalid ∧
    (statusWord s).getLsbD 2 = s.err ∧ (statusWord s).getLsbD 3 = false ∧
    (statusWord s).extractLsb' 4 4 = s.errcode ∧ (∀ k, 8 ≤ k → (statusWord s).getLsbD k = false) ∧
    performAccess ⟨0x04, 32, .read⟩ s = .next { s with reads := statusWord s :: s.reads } ∧
    ∀ v, performAccess ⟨0x04, 32, .write v⟩ s = .next s

/-- R56: what a read of each register returns, and that no field of the block's state changes. While DVALID is 0 a digest read
returns some word, of which nothing is said, and takes one draw. -/
def Obligations.RegisterReads : Prop :=
  ∀ (off : Nat) (s : State), off < 0x40 → off % 4 = 0 →
    ∃ (w : Word) (k : Nat), performAccess ⟨off, 32, .read⟩ s = .next { s with reads := w :: s.reads, draws := k } ∧
      (off = 0x00 → w = 0x00000000) ∧
      (off = 0x04 → w = statusWord s) ∧
      (off = 0x08 → w = s.din) ∧
      (∀ j, j < 8 → off = 0x10 + 4 * j → s.dvalid = true → w = s.dig.get j ∧ k = s.draws) ∧
      (∀ j, j < 8 → off = 0x10 + 4 * j → s.dvalid = false → k = s.draws + 1) ∧
      (off = 0x0C ∨ 0x30 ≤ off → w = 0x00000000) ∧
      (off < 0x10 ∨ 0x30 ≤ off → k = s.draws)

/-- R57: what a write of each register does: CMD presents the word to the acceptance procedure, DIN takes the value, every
other offset ignores it. -/
def Obligations.RegisterWrites : Prop :=
  ∀ (off : Nat) (v : Word) (s : State), off < 0x40 → off % 4 = 0 →
    (off = 0x00 → performAccess ⟨off, 32, .write v⟩ s = acceptCommand v s) ∧
    (off = 0x08 → performAccess ⟨off, 32, .write v⟩ s = .next { s with din := v }) ∧
    (off ≠ 0x00 → off ≠ 0x08 → performAccess ⟨off, 32, .write v⟩ s = .next s)

/-- R58: an access has no step exactly when it is not 32 bits wide, not at a multiple of 4, or outside the window; every
other access has one. -/
def Obligations.OnlyAlignedWordAccessesHaveAStep : Prop :=
  ∀ (a : Access) (s : State),
    ((a.bits ≠ 32 ∨ a.off % 4 ≠ 0 ∨ 0x40 ≤ a.off) → ∃ r, performAccess a s = .refused r) ∧
    (a.bits = 32 → a.off % 4 = 0 → a.off < 0x40 → ∃ t, performAccess a s = .next t)

/-- R23: the host cannot write H, BUF or LEN (no access changes them), and cannot read them or the contents of INFL: two
states that agree on BUSY, DVALID, ERR, ERRCODE, DIN and DIG answer every read alike. R37 gives a DIGEST read while DVALID is 0
a fresh draw; that it too answers alike in two states with equal draw counters is the model's choice (log 4), and all it says is
that the draw depends on nothing that is hidden. -/
def Obligations.StreamStateIsHidden : Prop :=
  (∀ (a : Access) (s t : State), performAccess a s = .next t → t.h = s.h ∧ t.buf = s.buf ∧ t.len = s.len) ∧
  (∀ (off : Nat) (s t : State), s.infl.isSome = t.infl.isSome → s.dvalid = t.dvalid → s.err = t.err →
    s.errcode = t.errcode → s.din = t.din → s.dig = t.dig → s.draws = t.draws → regValue off s = regValue off t)

/-- R65: an access by a master that does not own the instance has no step. -/
def Obligations.SecondHostHasNoStep : Prop :=
  ∀ (s : State) (ts : List Turn), s.turns = .secondHost :: ts → step s = .refused .secondHost

/-! ### Steps, reset, invariants -/

/-- R20, R30, R150: when the host moves and its next access is the write to CMD of a word that decodes to i, the step is `exec
i` at the state whose host has made that access; and the word placed by `withFetchWord` runs in the very next step. -/
def Obligations.StepRunsTheDecodedCommand : Prop :=
  (∀ (s : State) (v : Word) (rest : List HostOp) (i : Instr), nextTurn s = .host → s.host = commandWrite v :: rest →
    decode v = .ok i → step s = exec i { s with host := rest, turns := s.turns.tail }) ∧
  (∀ (s : State) (w : Nat) (i : Instr), decodeTableWord 32 w = some i → step (s.withFetchWord 32 w) = exec i s)

/-- R151: the core's turn is the completion of the command in flight, all of it in one step, and with nothing in flight it
changes nothing; a command in flight also completes when the interleaving has run out. -/
def Obligations.CoreTurnCompletes : Prop :=
  ∀ s : State,
    (∀ ts, s.turns = .core :: ts → step s = .next (complete { s with turns := ts })) ∧
    (s.turns = [] → s.infl ≠ none → step s = .next (complete s))

/-- R228: a command in flight completes after a finite number of steps: whatever the interleaving of host and core, with the
host inside the interface contract, at most one step more than the interleaving is long. -/
def Obligations.CommandInFlightCompletes : Prop :=
  ∀ s : State, (∀ t ∈ s.turns, t = .host ∨ t = .core) → (∀ o ∈ s.host, o.inContract = true) → s.infl ≠ none →
    ∃ k t u, k ≤ s.turns.length ∧ core.run k s = .next t ∧ t.infl = s.infl ∧ nextTurn t = .core ∧
      step t = .next u ∧ u.infl = none

/-- R220, R162: what reset leaves, in `State.reset` and in the reset event at any step of any state; INIT's completion leaves
the same stream. The value of DIG and the profile are not the spec's, so the first clause is for every value of them (logs 1
and 3 name the two that `State.reset` takes). -/
def Obligations.ResetLeavesTheInitialState : Prop :=
  (∀ (p : Profile) (d : Words8), (State.resetWith p d).stream = ⟨iv, [], 0⟩ ∧ (State.resetWith p d).din = 0x00000000 ∧
    (State.resetWith p d).dvalid = false ∧ (State.resetWith p d).err = false ∧ (State.resetWith p d).errcode = 0 ∧
    (State.resetWith p d).infl = none ∧ statusWord (State.resetWith p d) = 0x00000000) ∧
  (∃ p d, State.reset = State.resetWith p d) ∧
  (∀ (s : State) (ts : List Turn), s.turns = .reset :: ts →
    ∃ d k, step s = .next { State.resetWith s.profile d with host := s.host, turns := ts, reads := s.reads, draws := k }) ∧
  (∀ s : State, (initEffect s).stream = ⟨iv, [], 0⟩)

/-- R22: only three things write H: a reset, the completion of INIT, and a full block inside ABSORB. -/
def Obligations.OnlyThreeThingsWriteH : Prop :=
  ∀ s t : State, step s = .next t → t.h ≠ s.h →
    (nextTurn s = .reset ∧ t.h = iv) ∨
    (nextTurn s = .core ∧ (∃ d, s.infl = some ⟨.init, d⟩) ∧ t.h = iv) ∨
    (nextTurn s = .core ∧ ∃ n d, s.infl = some ⟨.absorb n, d⟩ ∧ 64 ≤ s.buf.length + n)

/-- R25, R205: in a state that meets the invariants LEN never decreases and never wraps: a step leaves it, adds 8 bits for each
of the 1 to 4 bytes absorbed, or sets it to 0 by INIT or reset. -/
def Obligations.LengthCounterNeverDecreases : Prop :=
  ∀ s t : State, s.Inv → step s = .next t →
    t.len = s.len ∨
    (nextTurn s = .core ∧ ∃ n d, s.infl = some ⟨.absorb n, d⟩ ∧ 1 ≤ n ∧ n ≤ 4 ∧ t.len.toNat = s.len.toNat + 8 * n) ∨
    (t.len = 0 ∧ (nextTurn s = .reset ∨ (nextTurn s = .core ∧ ∃ d, s.infl = some ⟨.init, d⟩)))

/-- R33 (its list of writers): a step changes DVALID only by accepting a command (to 0), by completing FINAL (to 1), or by a
reset (to 0). -/
def Obligations.DigestValidIsWrittenInThreeWays : Prop :=
  ∀ s t : State, step s = .next t → t.dvalid ≠ s.dvalid →
    (nextTurn s = .host ∧ s.infl = none ∧ t.infl ≠ none ∧ t.dvalid = false) ∨
    (nextTurn s = .core ∧ (∃ d, s.infl = some ⟨.final, d⟩) ∧ t.dvalid = true) ∨
    (nextTurn s = .reset ∧ t.dvalid = false)

/-- R24, R25, R33 to R35, R73: the register invariants hold in every state that reset leaves, whatever DIG holds and whatever
the profile; and the empty message is the stream there. -/
def Obligations.ResetMeetsTheInvariants : Prop :=
  ∀ (p : Profile) (d : Words8), (State.resetWith p d).Inv ∧ (State.resetWith p d).StreamIs [] ∧
    (State.resetWith p d).Genuine

/-- R24, R25, R33 to R35: every step, of whichever agent and by whatever access, keeps the register invariants. -/
def Obligations.StepKeepsTheInvariants : Prop :=
  ∀ s t : State, s.Inv → step s = .next t → t.Inv

/-- R33, R162, R170, R175: every step keeps this: the stream state is `Update(Init, m)` for some message m that is short enough
to be counted, and whenever DVALID is 1, DIG holds the eight digest words of that very message. -/
def Obligations.StepKeepsDigestsGenuine : Prop :=
  ∀ s t : State, s.Genuine → step s = .next t → t.Genuine

/-- R27, R40: no step changes which tables the instance reads (they are "never written"; the field `profile` is log 1's). The
other clauses are about the model's own fields and its choices: a step takes one turn (R20, log 5), at most one line of the
host's program (log 6), and never takes a draw back (log 4). -/
def Obligations.NothingWritesTheTables : Prop :=
  ∀ s t : State, step s = .next t → t.profile = s.profile ∧ t.turns = s.turns.tail ∧
    (t.host = s.host ∨ t.host = s.host.tail) ∧ s.draws ≤ t.draws

/-! ### Several instances -/

/-- R39: one step of a row of instances leaves every instance but the one the event reaches exactly as it was, and what it does
to that one depends on that one alone, but for the number of the next free draw, which the row counts for all its instances
(log 4) and never takes back. -/
def Obligations.InstancesAreIsolated : Prop :=
  (∀ (y : System) (e : SysEvent) (es : List SysEvent), y.events = e :: es → y.nextEvent = some e) ∧
  ∀ (y z : System) (e : SysEvent), y.nextEvent = some e → y.step = .next z →
    ∃ k s t, eventTarget y.instances.length e = some k ∧ y.instances[k]? = some s ∧
      eventAction k e (setDraws y.draws s) = .next t ∧ z.draws = t.draws ∧ y.draws ≤ z.draws ∧
      z.instances[k]? = some t ∧ z.events = y.events.tail ∧ z.instances.length = y.instances.length ∧
      ∀ j, j ≠ k → z.instances[j]? = y.instances[j]?

/-- R29, R50: an aligned 32-bit access at `BASE + off` of an instance whose window no other window overlaps is performed by
that instance at offset `off`. A DIGEST read there while DVALID is 0 takes a draw of its own among
all reads of the row (R37; that draws are counted is log 4's). -/
def Obligations.WindowAccessReachesItsInstance : Prop :=
  ∀ (y : System) (k off : Nat) (kind : AccessKind) (es : List SysEvent) (s : State),
    y.instances[k]? = some s → off < 0x40 → off % 4 = 0 →
    (∀ j, j < y.instances.length → j ≠ k → windowBase j + 0x40 ≤ windowBase k ∨ windowBase k + 0x40 ≤ windowBase j) →
    y.events = .access (windowBase k + off) 32 kind :: es →
    ∃ t z, performAccess ⟨off, 32, kind⟩ (setDraws y.draws s) = .next t ∧ y.step = .next z ∧
      z.instances = y.instances.set k t ∧ z.events = es ∧ z.draws = t.draws ∧
      (kind = .read → 0x10 ≤ off → off < 0x30 → s.dvalid = false → z.draws = y.draws + 1)

/-- R24, R25, R33 to R35, R39: every step of a row of instances keeps the register invariants of all of them, and every row that
reset leaves meets them. -/
def Obligations.SystemStepKeepsTheInvariants : Prop :=
  (∀ y z : System, y.Inv → y.step = .next z → z.Inv) ∧
  (∀ (p : Profile) (dig : Words8) (digs : List Words8), (System.resetWith p dig digs).Inv)

/-! ### Host programs -/

/-- R77: the chunks of `UPDATE s` are s cut into pieces of 1 to 4 bytes, and `FEED` of a piece gives back exactly its bytes as
the operand of its ABSORB. -/
def Obligations.UpdateFeedsItsBytes : Prop :=
  (∀ s : List Byte, (fourByteChunks s).flatten = s ∧ ∀ c ∈ fourByteChunks s, 1 ≤ c.length ∧ c.length ≤ 4) ∧
  (∀ c : List Byte, 1 ≤ c.length → c.length ≤ 4 → operandBytes c.length (packBytes c) = c)

/-- R76: the access that each line stands for: the four forms of `WR CMD` with a mnemonic, `WR` of a value to each register,
`RD` of each register. POLL reads STATUS and its line goes when BUSY was read as 0 and stays otherwise; that POLL is one line
whose reads are all logged is the model's choice (log 19). -/
def Obligations.AssemblerLinesStandForAccesses : Prop :=
  (∀ n, 1 ≤ n → n ≤ 4 → assembleLine (.wrCmd (.absorb n)) =
    .access ⟨0x00, 32, .write (0x00000002 ||| (BitVec.ofNat 32 (n - 1) <<< 4))⟩) ∧
  assembleLine (.wrCmd .nop) = .access ⟨0x00, 32, .write 0x00000000⟩ ∧
  assembleLine (.wrCmd .init) = .access ⟨0x00, 32, .write 0x00000001⟩ ∧
  assembleLine (.wrCmd .final) = .access ⟨0x00, 32, .write 0x00000003⟩ ∧
  (∀ v, assembleLine (.wr .cmd v) = .access ⟨0x00, 32, .write v⟩ ∧
    assembleLine (.wr .status v) = .access ⟨0x04, 32, .write v⟩ ∧
    assembleLine (.wr .din v) = .access ⟨0x08, 32, .write v⟩ ∧
    ∀ j, j < 8 → assembleLine (.wr (.digest j) v) = .access ⟨0x10 + 4 * j, 32, .write v⟩) ∧
  assembleLine (.rd .cmd) = .access ⟨0x00, 32, .read⟩ ∧
  assembleLine (.rd .status) = .access ⟨0x04, 32, .read⟩ ∧
  assembleLine (.rd .din) = .access ⟨0x08, 32, .read⟩ ∧
  (∀ j, j < 8 → assembleLine (.rd (.digest j)) = .access ⟨0x10 + 4 * j, 32, .read⟩) ∧
  (∀ (s : State) (a : Access) (rest : List HostOp), s.host = .access a :: rest →
    hostStep s = performAccess a { s with host := rest }) ∧
  (∀ (s : State) (rest : List HostOp), s.host = .poll :: rest →
    hostStep s = .next { s with reads := statusWord s :: s.reads, host := if (statusWord s).getLsbD 0 then s.host else rest })

/-- R171: the hexadecimal digest is 64 characters; byte i of any byte string is its characters 2i and 2i + 1, the high nibble's
lowercase digit first; and different byte strings have different renderings. -/
def Obligations.HexDigestRendering : Prop :=
  (∀ (p : Profile) (m : List Byte), (hex (digest p m)).length = 64) ∧
  (∀ (d : List Byte) (i : Nat) (b : Byte), d[i]? = some b →
    (hex d)[2 * i]? =
      (['0', '1', '2', '3', '4', '5', '6', '7', '8', '9', 'a', 'b', 'c', 'd', 'e', 'f'] : List Char)[b.toNat / 16]? ∧
    (hex d)[2 * i + 1]? =
      (['0', '1', '2', '3', '4', '5', '6', '7', '8', '9', 'a', 'b', 'c', 'd', 'e', 'f'] : List Char)[b.toNat % 16]?) ∧
  (∀ d d' : List Byte, hex d = hex d' → d = d')

/-- R177: interface adequacy. From any state with nothing in flight, the host program that starts with INIT, absorbs a message
in any chunks of 1 to 4 bytes and ends with FINAL and eight digest reads, each command followed by POLL, runs to its end under
every interleaving of host and core: no error, a valid digest, the stream state of the message, and the eight words of its
digest as the last eight words read, whose big-endian serialisation is `Digest(m)`, 32 bytes. That the program runs to its end
when the interleaving has run out is the model's form of fairness (log 5), and POLL is log 19's. -/
def Obligations.HashProgramComputesTheDigest : Prop :=
  ∀ (s : State) (chunks : List (List Byte)), s.infl = none → s.host = assemble (hashChunkLines chunks) →
    (∀ t ∈ s.turns, t = .host ∨ t = .core) → (∀ c ∈ chunks, 1 ≤ c.length ∧ c.length ≤ 4) →
    8 * chunks.flatten.length < 2 ^ 64 →
    ∃ k t, core.run k s = .next t ∧ t.host = [] ∧ t.infl = none ∧ t.err = false ∧ t.dvalid = true ∧
      t.stream = update s.profile initStream chunks.flatten ∧
      (t.reads.take 8).reverse = (digestWords s.profile chunks.flatten).toList ∧
      (t.reads.take 8).reverse.flatMap be32Bytes = digest s.profile chunks.flatten ∧
      (digest s.profile chunks.flatten).length = 32

/-- R176: the words a host reads do not depend on the latency draws or on the chunking: two such programs of one message, from
any two states of one profile, in any chunks and under any two interleavings, end with the same eight words. -/
def Obligations.DigestIndependentOfLatencyAndChunking : Prop :=
  ∀ (s s' : State) (chunks chunks' : List (List Byte)), s.profile = s'.profile → s.infl = none → s'.infl = none →
    s.host = assemble (hashChunkLines chunks) → s'.host = assemble (hashChunkLines chunks') →
    (∀ t ∈ s.turns, t = .host ∨ t = .core) → (∀ t ∈ s'.turns, t = .host ∨ t = .core) →
    (∀ c ∈ chunks, 1 ≤ c.length ∧ c.length ≤ 4) → (∀ c ∈ chunks', 1 ≤ c.length ∧ c.length ≤ 4) →
    chunks.flatten = chunks'.flatten → 8 * chunks.flatten.length < 2 ^ 64 →
    ∃ k t k' t', core.run k s = .next t ∧ t.host = [] ∧ core.run k' s' = .next t' ∧ t'.host = [] ∧
      t.reads.take 8 = t'.reads.take 8

/-! ### What the OPEN parameters leave guaranteed -/

/-- R10, R112, R113: under every profile, the default one and every open one, `SCHED_EXPAND` depends on W[i-15] and on W[i-2];
and under the default profile it is R113's formula, written out with XOR, left rotation, modular addition and the right shift,
which mixes words as R112 requires (as log 2 reads it). -/
def Obligations.EveryExpansionMeetsItsRequirements : Prop :=
  (∀ p : Profile, SchedDepends (schedExpand p)) ∧
  ∀ i, 16 ≤ i → i ≤ 63 →
    let s0 : MixFormula := .xor (.xor (.rotl (32 - 7) (.word (i - 15))) (.rotl (32 - 18) (.word (i - 15)))) (.shr 3 (.word (i - 15)))
    let s1 : MixFormula := .xor (.xor (.rotl (32 - 17) (.word (i - 2))) (.rotl (32 - 19) (.word (i - 2)))) (.shr 10 (.word (i - 2)))
    let e : MixFormula := .add (.add (.add s1 (.word (i - 7))) s0) (.word (i - 16))
    e.mixes i = true ∧ ∀ w : List Word, schedExpand .defaultProfile i w = e.eval w

/-- R228, R151, for every instance of a row: a command in flight completes after a finite number of steps, whatever the other
instances do, as long as the events are in contract and do not reset its instance: at most one step more than there are events
and instances. The order of completions when the events have run out is the model's choice (log 26). -/
def Obligations.RowCommandInFlightCompletes : Prop :=
  ∀ (p : Profile) (dig : Words8) (digs : List Words8) (y : System) (k : Nat) (s : State),
    (∀ e ∈ y.events, e.inContract y.instances.length = true ∧ e ≠ .reset k) →
    y.instances[k]? = some s → s.infl ≠ none →
    ∃ m z t u v, m ≤ y.events.length + y.instances.length ∧ (rowCore p dig digs).run m y = .next z ∧
      z.instances[k]? = some t ∧ t.infl = s.infl ∧ z.nextEvent = some (.core k) ∧ z.step = .next u ∧
      u.instances[k]? = some v ∧ v.infl = none
end

