-- ==== Sys2Proof/Laws/Decode.lean ====
section
/-! SUPPORT. A command word is its three fields, and a word built of three fields has them. -/

namespace Sys2Proof

/-- R71: the three fields make up the word. -/
theorem word_eq_fields (v : Word) : v = rsvdField v ++ nbField v ++ opField v := by
  unfold rsvdField nbField opField
  apply BitVec.eq_of_getLsbD_eq
  intro i hi
  simp only [BitVec.getLsbD_append, BitVec.getLsbD_extractLsb']
  by_cases h1 : i < 4
  · simp [h1]
  · by_cases h2 : i - 4 < 2
    · simp only [h1, h2, decide_true, decide_false, Bool.true_and]
      congr 1; omega
    · have h3 : i - 4 - 2 < 26 := by omega
      simp only [h1, h2, h3, decide_true, decide_false, Bool.true_and]
      congr 1; omega

/-- R71: the fields of a word whose RSVD is 0. -/
theorem fields_of_word : ∀ (nb : BitVec 2) (op : BitVec 4),
    nbField ((0 : BitVec 26) ++ nb ++ op) = nb ∧ opField ((0 : BitVec 26) ++ nb ++ op) = op ∧
      rsvdField ((0 : BitVec 26) ++ nb ++ op) = 0 := by decide

end Sys2Proof
end

