-- ==== Sys2Proof/Laws/Operands.lean ====
section
/-! SUPPORT. Lemmas about the byte orders and the operand bytes. -/

namespace Sys2Proof.Machine

@[simp] theorem be32Bytes_length (w : Word) : (be32Bytes w).length = 4 := rfl

@[simp] theorem be64Bytes_length (l : BitLength) : (be64Bytes l).length = 8 := rfl

theorem operandBytes_length (n : Nat) (d : Word) : (operandBytes n d).length = min n 4 := by
  simp [operandBytes]

theorem operandBytes_length_of_le {n : Nat} (h : n ≤ 4) (d : Word) : (operandBytes n d).length = n := by
  rw [operandBytes_length]; omega

theorem byteLane_toNat (w : Word) (k : Nat) : (byteLane w k).toNat = w.toNat / 2 ^ (24 - 8 * k) % 256 := by
  simp [byteLane, BitVec.extractLsb'_toNat, Nat.shiftRight_eq_div_pow]

theorem be32_toNat (b0 b1 b2 b3 : Byte) :
    (be32 b0 b1 b2 b3).toNat = b0.toNat * 2 ^ 24 + b1.toNat * 2 ^ 16 + b2.toNat * 2 ^ 8 + b3.toNat := by
  have := b0.isLt; have := b1.isLt; have := b2.isLt; have := b3.isLt
  simp only [be32, BitVec.toNat_ofNat]; omega

end Sys2Proof.Machine
end

