-- ==== Sys2Proof/Laws/Digest.lean ====
section
/-! SUPPORT. Lemmas about the datapath: lengths, the loops of Pad, Schedule and Update, and the order of compressed blocks. -/

namespace Sys2Proof.Machine

/-- The fill loop adds exactly the zeros that are missing to 56 modulo 64, if it has fuel for them. -/
theorem zeroFill_eq (fuel k : Nat) (p : List Byte) (hk : k ≤ fuel) (hmod : (p.length + k) % 64 = 56)
    (hmin : ∀ j, j < k → (p.length + j) % 64 ≠ 56) : zeroFill fuel p = p ++ List.replicate k 0x00 := by
  induction fuel generalizing k p with
  | zero =>
    obtain rfl : k = 0 := by omega
    simp [zeroFill]
  | succ fuel ih =>
    cases k with
    | zero => simp only [Nat.add_zero] at hmod; simp [zeroFill, hmod]
    | succ k =>
      have h0 : p.length % 64 ≠ 56 := by simpa using hmin 0 (by omega)
      rw [zeroFill, if_neg h0, ih k (p ++ [0x00]) (by omega)]
      · rw [List.append_assoc, List.replicate_succ]; rfl
      · simp only [List.length_append, List.length_singleton]; omega
      · intro j hj
        have := hmin (j + 1) (by omega)
        simp only [List.length_append, List.length_singleton]; omega

/-- R101: the number of zero bytes after the 0x80 byte, up to 56 modulo 64. -/
theorem pad_eq (tail : List Byte) (l : BitLength) :
    pad tail l = tail ++ [0x80] ++ List.replicate ((119 - tail.length % 64) % 64) 0x00 ++ be64Bytes l := by
  unfold pad
  rw [zeroFill_eq 64 ((119 - tail.length % 64) % 64)]
  · omega
  · simp only [List.length_append, List.length_singleton]; omega
  · intro j hj
    simp only [List.length_append, List.length_singleton]; omega

theorem pad_length (tail : List Byte) (l : BitLength) :
    (pad tail l).length = tail.length + 9 + (119 - tail.length % 64) % 64 := by
  simp [pad_eq]; omega

theorem expandWords_length (p : Profile) (n : Nat) (w : List Word) : (expandWords p n w).length = w.length + n := by
  induction n generalizing w with
  | zero => rfl
  | succ n ih => rw [expandWords, ih]; simp; omega

/-- Expanding keeps the words already there. -/
theorem expandWords_take (p : Profile) (n : Nat) (w : List Word) (k : Nat) (hk : k ≤ w.length) :
    (expandWords p n w).take k = w.take k := by
  induction n generalizing w with
  | zero => rfl
  | succ n ih => rw [expandWords, ih _ (by simp; omega), List.take_append_of_le_length hk]

/-- Each expanded word is SCHED_EXPAND of its number and of the words before it. -/
theorem expandWords_get (p : Profile) (n : Nat) (w : List Word) (i : Nat) (h1 : w.length ≤ i) (h2 : i < w.length + n) :
    (expandWords p n w)[i]? = some (schedExpand p i ((expandWords p n w).take i)) := by
  induction n generalizing w with
  | zero => omega
  | succ n ih =>
    rw [expandWords]
    by_cases hi : i = w.length
    · subst hi
      have ht := expandWords_take p n (w ++ [schedExpand p w.length w])
      have h1 : (expandWords p n (w ++ [schedExpand p w.length w])).take w.length = w := by
        rw [ht _ (by simp)]; simp
      have h2 := congrArg (·[w.length]?) (ht (w.length + 1) (by simp))
      rw [h1]
      simpa [List.getElem?_take] using h2
    · exact ih _ (by simp; omega) (by simp; omega)

@[simp] theorem loadWords_length (block : List Byte) : (loadWords block).length = 16 := by simp [loadWords]

@[simp] theorem schedule_length (p : Profile) (block : List Byte) : (schedule p block).length = 64 := by
  simp [schedule, expandWords_length]

/-- Below a full block the loop of Update stops at once. -/
theorem drainBlocks_short (p : Profile) (n : Nat) (h : Words8) (b : List Byte) (hb : b.length < 64) :
    drainBlocks p n h b = (h, b) := by
  cases n with
  | zero => rfl
  | succ n => rw [drainBlocks, if_neg (by omega)]

/-- The loop of Update in closed form: it compresses all full blocks, in order, and keeps the rest. -/
theorem drainBlocks_eq (p : Profile) (n : Nat) (h : Words8) (b : List Byte) (hn : b.length / 64 ≤ n) :
    drainBlocks p n h b = (foldBlocks p (b.length / 64) h b, b.drop (64 * (b.length / 64))) := by
  induction n generalizing h b with
  | zero =>
    have hb : b.length < 64 := by omega
    rw [drainBlocks_short p 0 h b hb, Nat.div_eq_of_lt hb]
    simp [foldBlocks]
  | succ n ih =>
    by_cases hb : 64 ≤ b.length
    · rw [drainBlocks, if_pos hb, ih _ _ (by simp; omega)]
      have hq : b.length / 64 = (b.drop 64).length / 64 + 1 := by simp; omega
      rw [hq, foldBlocks, List.drop_drop]
      congr 2
      omega
    · rw [drainBlocks_short p _ h b (by omega), Nat.div_eq_of_lt (by omega)]
      simp [foldBlocks]

theorem update_h (p : Profile) (st : Stream) (s : List Byte) :
    (update p st s).h = foldBlocks p ((st.buf ++ s).length / 64) st.h (st.buf ++ s) := by
  simp only [update]; rw [drainBlocks_eq _ _ _ _ (Nat.div_le_self _ _)]

theorem update_buf (p : Profile) (st : Stream) (s : List Byte) :
    (update p st s).buf = (st.buf ++ s).drop (64 * ((st.buf ++ s).length / 64)) := by
  simp only [update]; rw [drainBlocks_eq _ _ _ _ (Nat.div_le_self _ _)]

/-- Within the caller's guarantee of R160 the length grows as a number: it never wraps. -/
theorem addLength_toNat (len : BitLength) (n : Nat) (hg : len.toNat + 8 * n < 2 ^ 64) :
    (addLength len n).toNat = len.toNat + 8 * n := by
  rw [addLength, if_pos hg, BitVec.toNat_add, BitVec.toNat_ofNat, Nat.mod_eq_of_lt (by omega : 8 * n < 2 ^ 64), Nat.mod_eq_of_lt hg]

theorem addLength_eq (len : BitLength) (n : Nat) (hg : len.toNat + 8 * n < 2 ^ 64) :
    addLength len n = len + BitVec.ofNat 64 (8 * n) := if_pos hg

theorem addLength_zero (len : BitLength) : addLength len 0 = len := by
  simp [addLength, len.isLt]

theorem addLength_addLength (len : BitLength) (m n : Nat) (hg : len.toNat + 8 * (m + n) < 2 ^ 64) :
    addLength (addLength len m) n = addLength len (m + n) := by
  have hm := addLength_toNat len m (by omega)
  apply BitVec.eq_of_toNat_eq
  rw [addLength_toNat _ n (by omega), addLength_toNat _ _ hg]
  omega

theorem update_len (p : Profile) (st : Stream) (s : List Byte) : (update p st s).len = addLength st.len s.length := rfl

/-- R170: within its range the digest is Final of the stream of the whole message. -/
theorem digestWords_eq (p : Profile) (m : List Byte) (hm : 8 * m.length < 2 ^ 64) :
    digestWords p m = finalize p (update p initStream m) := if_pos hm

theorem update_buf_length (p : Profile) (st : Stream) (s : List Byte) :
    (update p st s).buf.length = (st.buf.length + s.length) % 64 := by
  rw [update_buf]; simp; omega

/-- Blocks compressed one after another: the first `m` bytes' blocks, then the others. -/
theorem foldBlocks_add (p : Profile) (m n : Nat) (h : Words8) (b : List Byte) :
    foldBlocks p (m + n) h b = foldBlocks p n (foldBlocks p m h b) (b.drop (64 * m)) := by
  induction m generalizing h b with
  | zero => simp [foldBlocks]
  | succ m ih =>
    rw [Nat.add_right_comm, foldBlocks, ih, foldBlocks, List.drop_drop]
    congr 2
    omega

/-- Only the blocks that are compressed matter. -/
theorem foldBlocks_append (p : Profile) (n : Nat) (h : Words8) (b c : List Byte) (hb : 64 * n ≤ b.length) :
    foldBlocks p n h (b ++ c) = foldBlocks p n h b := by
  induction n generalizing h b with
  | zero => rfl
  | succ n ih =>
    rw [foldBlocks, foldBlocks, List.take_append_of_le_length (by omega), List.drop_append_of_le_length (by omega),
      ih _ _ (by simp; omega)]

end Sys2Proof.Machine
end

