-- ==== Sys2Proof/Laws/Flags.lean ====
section
/-! SUPPORT. STATUS, bit by bit. -/

namespace Sys2Proof.Machine

theorem flagWord_bit (b : Bool) (k : Nat) : (flagWord b).getLsbD k = (decide (k = 0) && b) := by
  cases b
  · simp [flagWord]
  · simp only [flagWord, BitVec.getLsbD_setWidth, BitVec.getLsbD_ofBool]
    by_cases h : k = 0 <;> simp [h]

/-- R31: bit `k` of the value that a read of STATUS returns. -/
theorem statusWord_bit (s : State) (k : Nat) :
    (statusWord s).getLsbD k =
      (decide (k < 8) &&
        ((decide (4 ≤ k) && s.errcode.getLsbD (k - 4)) || (decide (k = 2) && s.err) || (decide (k = 1) && s.dvalid) ||
          (decide (k = 0) && s.busy))) := by
  simp only [statusWord, BitVec.getLsbD_or, BitVec.getLsbD_shiftLeft, flagWord_bit, BitVec.getLsbD_setWidth]
  by_cases hk : k < 8
  · interval_cases k <;> simp
  · rw [BitVec.getLsbD_of_ge s.errcode (k - 4) (by omega)]
    have h2 : ¬(k - 2 = 0) := by omega
    have h1 : ¬(k - 1 = 0) := by omega
    have h0 : ¬(k = 0) := by omega
    simp [hk, h2, h1, h0]

end Sys2Proof.Machine
end

