-- ==== Sys2Proof/Laws/State.lean ====
section
/-! SUPPORT. What each named update of State does to each field: one lemma per field, so that no proof unfolds a record update. -/

namespace Sys2Proof.Machine

@[simp] theorem State.setStream_h (s : State) (st : Stream) : (s.setStream st).h = st.h := rfl
@[simp] theorem State.setStream_buf (s : State) (st : Stream) : (s.setStream st).buf = st.buf := rfl
@[simp] theorem State.setStream_len (s : State) (st : Stream) : (s.setStream st).len = st.len := rfl
@[simp] theorem State.setStream_din (s : State) (st : Stream) : (s.setStream st).din = s.din := rfl
@[simp] theorem State.setStream_dig (s : State) (st : Stream) : (s.setStream st).dig = s.dig := rfl
@[simp] theorem State.setStream_dvalid (s : State) (st : Stream) : (s.setStream st).dvalid = s.dvalid := rfl
@[simp] theorem State.setStream_err (s : State) (st : Stream) : (s.setStream st).err = s.err := rfl
@[simp] theorem State.setStream_errcode (s : State) (st : Stream) : (s.setStream st).errcode = s.errcode := rfl
@[simp] theorem State.setStream_infl (s : State) (st : Stream) : (s.setStream st).infl = s.infl := rfl
@[simp] theorem State.setStream_profile (s : State) (st : Stream) : (s.setStream st).profile = s.profile := rfl
@[simp] theorem State.setStream_host (s : State) (st : Stream) : (s.setStream st).host = s.host := rfl
@[simp] theorem State.setStream_turns (s : State) (st : Stream) : (s.setStream st).turns = s.turns := rfl
@[simp] theorem State.setStream_reads (s : State) (st : Stream) : (s.setStream st).reads = s.reads := rfl
@[simp] theorem State.setStream_draws (s : State) (st : Stream) : (s.setStream st).draws = s.draws := rfl

@[simp] theorem clearError_h (s : State) : (clearError s).h = s.h := rfl
@[simp] theorem clearError_buf (s : State) : (clearError s).buf = s.buf := rfl
@[simp] theorem clearError_len (s : State) : (clearError s).len = s.len := rfl
@[simp] theorem clearError_din (s : State) : (clearError s).din = s.din := rfl
@[simp] theorem clearError_dig (s : State) : (clearError s).dig = s.dig := rfl
@[simp] theorem clearError_dvalid (s : State) : (clearError s).dvalid = s.dvalid := rfl
@[simp] theorem clearError_err (s : State) : (clearError s).err = false := rfl
@[simp] theorem clearError_errcode (s : State) : (clearError s).errcode = 0 := rfl
@[simp] theorem clearError_infl (s : State) : (clearError s).infl = s.infl := rfl
@[simp] theorem clearError_profile (s : State) : (clearError s).profile = s.profile := rfl
@[simp] theorem clearError_host (s : State) : (clearError s).host = s.host := rfl
@[simp] theorem clearError_turns (s : State) : (clearError s).turns = s.turns := rfl
@[simp] theorem clearError_reads (s : State) : (clearError s).reads = s.reads := rfl
@[simp] theorem clearError_draws (s : State) : (clearError s).draws = s.draws := rfl

@[simp] theorem acceptJob_h (j : Job) (s : State) : (acceptJob j s).h = s.h := rfl
@[simp] theorem acceptJob_buf (j : Job) (s : State) : (acceptJob j s).buf = s.buf := rfl
@[simp] theorem acceptJob_len (j : Job) (s : State) : (acceptJob j s).len = s.len := rfl
@[simp] theorem acceptJob_din (j : Job) (s : State) : (acceptJob j s).din = s.din := rfl
@[simp] theorem acceptJob_dig (j : Job) (s : State) : (acceptJob j s).dig = s.dig := rfl
@[simp] theorem acceptJob_dvalid (j : Job) (s : State) : (acceptJob j s).dvalid = false := rfl
@[simp] theorem acceptJob_err (j : Job) (s : State) : (acceptJob j s).err = s.err := rfl
@[simp] theorem acceptJob_errcode (j : Job) (s : State) : (acceptJob j s).errcode = s.errcode := rfl
@[simp] theorem acceptJob_infl (j : Job) (s : State) : (acceptJob j s).infl = some ⟨j, s.din⟩ := rfl
@[simp] theorem acceptJob_profile (j : Job) (s : State) : (acceptJob j s).profile = s.profile := rfl
@[simp] theorem acceptJob_host (j : Job) (s : State) : (acceptJob j s).host = s.host := rfl
@[simp] theorem acceptJob_turns (j : Job) (s : State) : (acceptJob j s).turns = s.turns := rfl
@[simp] theorem acceptJob_reads (j : Job) (s : State) : (acceptJob j s).reads = s.reads := rfl
@[simp] theorem acceptJob_draws (j : Job) (s : State) : (acceptJob j s).draws = s.draws := rfl

@[simp] theorem initEffect_h (s : State) : (initEffect s).h = iv := rfl
@[simp] theorem initEffect_buf (s : State) : (initEffect s).buf = [] := rfl
@[simp] theorem initEffect_len (s : State) : (initEffect s).len = 0 := rfl
@[simp] theorem initEffect_din (s : State) : (initEffect s).din = s.din := rfl
@[simp] theorem initEffect_dig (s : State) : (initEffect s).dig = s.dig := rfl
@[simp] theorem initEffect_dvalid (s : State) : (initEffect s).dvalid = s.dvalid := rfl
@[simp] theorem initEffect_err (s : State) : (initEffect s).err = s.err := rfl
@[simp] theorem initEffect_errcode (s : State) : (initEffect s).errcode = s.errcode := rfl
@[simp] theorem initEffect_infl (s : State) : (initEffect s).infl = s.infl := rfl
@[simp] theorem initEffect_profile (s : State) : (initEffect s).profile = s.profile := rfl
@[simp] theorem initEffect_host (s : State) : (initEffect s).host = s.host := rfl
@[simp] theorem initEffect_turns (s : State) : (initEffect s).turns = s.turns := rfl
@[simp] theorem initEffect_reads (s : State) : (initEffect s).reads = s.reads := rfl
@[simp] theorem initEffect_draws (s : State) : (initEffect s).draws = s.draws := rfl

@[simp] theorem absorbEffect_h (n : Nat) (d : Word) (s : State) : (absorbEffect n d s).h = (update s.profile s.stream (operandBytes n d)).h := rfl
@[simp] theorem absorbEffect_buf (n : Nat) (d : Word) (s : State) : (absorbEffect n d s).buf = (update s.profile s.stream (operandBytes n d)).buf := rfl
@[simp] theorem absorbEffect_len (n : Nat) (d : Word) (s : State) : (absorbEffect n d s).len = (update s.profile s.stream (operandBytes n d)).len := rfl
@[simp] theorem absorbEffect_din (n : Nat) (d : Word) (s : State) : (absorbEffect n d s).din = s.din := rfl
@[simp] theorem absorbEffect_dig (n : Nat) (d : Word) (s : State) : (absorbEffect n d s).dig = s.dig := rfl
@[simp] theorem absorbEffect_dvalid (n : Nat) (d : Word) (s : State) : (absorbEffect n d s).dvalid = s.dvalid := rfl
@[simp] theorem absorbEffect_err (n : Nat) (d : Word) (s : State) : (absorbEffect n d s).err = s.err := rfl
@[simp] theorem absorbEffect_errcode (n : Nat) (d : Word) (s : State) : (absorbEffect n d s).errcode = s.errcode := rfl
@[simp] theorem absorbEffect_infl (n : Nat) (d : Word) (s : State) : (absorbEffect n d s).infl = s.infl := rfl
@[simp] theorem absorbEffect_profile (n : Nat) (d : Word) (s : State) : (absorbEffect n d s).profile = s.profile := rfl
@[simp] theorem absorbEffect_host (n : Nat) (d : Word) (s : State) : (absorbEffect n d s).host = s.host := rfl
@[simp] theorem absorbEffect_turns (n : Nat) (d : Word) (s : State) : (absorbEffect n d s).turns = s.turns := rfl
@[simp] theorem absorbEffect_reads (n : Nat) (d : Word) (s : State) : (absorbEffect n d s).reads = s.reads := rfl
@[simp] theorem absorbEffect_draws (n : Nat) (d : Word) (s : State) : (absorbEffect n d s).draws = s.draws := rfl

@[simp] theorem finalEffect_h (s : State) : (finalEffect s).h = s.h := rfl
@[simp] theorem finalEffect_buf (s : State) : (finalEffect s).buf = s.buf := rfl
@[simp] theorem finalEffect_len (s : State) : (finalEffect s).len = s.len := rfl
@[simp] theorem finalEffect_din (s : State) : (finalEffect s).din = s.din := rfl
@[simp] theorem finalEffect_dig (s : State) : (finalEffect s).dig = finalize s.profile s.stream := rfl
@[simp] theorem finalEffect_dvalid (s : State) : (finalEffect s).dvalid = true := rfl
@[simp] theorem finalEffect_err (s : State) : (finalEffect s).err = s.err := rfl
@[simp] theorem finalEffect_errcode (s : State) : (finalEffect s).errcode = s.errcode := rfl
@[simp] theorem finalEffect_infl (s : State) : (finalEffect s).infl = s.infl := rfl
@[simp] theorem finalEffect_profile (s : State) : (finalEffect s).profile = s.profile := rfl
@[simp] theorem finalEffect_host (s : State) : (finalEffect s).host = s.host := rfl
@[simp] theorem finalEffect_turns (s : State) : (finalEffect s).turns = s.turns := rfl
@[simp] theorem finalEffect_reads (s : State) : (finalEffect s).reads = s.reads := rfl
@[simp] theorem finalEffect_draws (s : State) : (finalEffect s).draws = s.draws := rfl

@[simp] theorem regRead_h (off : Nat) (s : State) : (regRead off s).h = s.h := rfl
@[simp] theorem regRead_buf (off : Nat) (s : State) : (regRead off s).buf = s.buf := rfl
@[simp] theorem regRead_len (off : Nat) (s : State) : (regRead off s).len = s.len := rfl
@[simp] theorem regRead_din (off : Nat) (s : State) : (regRead off s).din = s.din := rfl
@[simp] theorem regRead_dig (off : Nat) (s : State) : (regRead off s).dig = s.dig := rfl
@[simp] theorem regRead_dvalid (off : Nat) (s : State) : (regRead off s).dvalid = s.dvalid := rfl
@[simp] theorem regRead_err (off : Nat) (s : State) : (regRead off s).err = s.err := rfl
@[simp] theorem regRead_errcode (off : Nat) (s : State) : (regRead off s).errcode = s.errcode := rfl
@[simp] theorem regRead_infl (off : Nat) (s : State) : (regRead off s).infl = s.infl := rfl
@[simp] theorem regRead_profile (off : Nat) (s : State) : (regRead off s).profile = s.profile := rfl
@[simp] theorem regRead_host (off : Nat) (s : State) : (regRead off s).host = s.host := rfl
@[simp] theorem regRead_turns (off : Nat) (s : State) : (regRead off s).turns = s.turns := rfl
@[simp] theorem regRead_reads (off : Nat) (s : State) : (regRead off s).reads = regValue off s :: s.reads := rfl
@[simp] theorem regRead_draws (off : Nat) (s : State) : (regRead off s).draws = if readDraws off s then s.draws + 1 else s.draws := rfl

@[simp] theorem setDin_h (v : Word) (s : State) : (setDin v s).h = s.h := rfl
@[simp] theorem setDin_buf (v : Word) (s : State) : (setDin v s).buf = s.buf := rfl
@[simp] theorem setDin_len (v : Word) (s : State) : (setDin v s).len = s.len := rfl
@[simp] theorem setDin_din (v : Word) (s : State) : (setDin v s).din = v := rfl
@[simp] theorem setDin_dig (v : Word) (s : State) : (setDin v s).dig = s.dig := rfl
@[simp] theorem setDin_dvalid (v : Word) (s : State) : (setDin v s).dvalid = s.dvalid := rfl
@[simp] theorem setDin_err (v : Word) (s : State) : (setDin v s).err = s.err := rfl
@[simp] theorem setDin_errcode (v : Word) (s : State) : (setDin v s).errcode = s.errcode := rfl
@[simp] theorem setDin_infl (v : Word) (s : State) : (setDin v s).infl = s.infl := rfl
@[simp] theorem setDin_profile (v : Word) (s : State) : (setDin v s).profile = s.profile := rfl
@[simp] theorem setDin_host (v : Word) (s : State) : (setDin v s).host = s.host := rfl
@[simp] theorem setDin_turns (v : Word) (s : State) : (setDin v s).turns = s.turns := rfl
@[simp] theorem setDin_reads (v : Word) (s : State) : (setDin v s).reads = s.reads := rfl
@[simp] theorem setDin_draws (v : Word) (s : State) : (setDin v s).draws = s.draws := rfl

@[simp] theorem setDraws_h (n : Nat) (s : State) : (setDraws n s).h = s.h := rfl
@[simp] theorem setDraws_buf (n : Nat) (s : State) : (setDraws n s).buf = s.buf := rfl
@[simp] theorem setDraws_len (n : Nat) (s : State) : (setDraws n s).len = s.len := rfl
@[simp] theorem setDraws_din (n : Nat) (s : State) : (setDraws n s).din = s.din := rfl
@[simp] theorem setDraws_dig (n : Nat) (s : State) : (setDraws n s).dig = s.dig := rfl
@[simp] theorem setDraws_dvalid (n : Nat) (s : State) : (setDraws n s).dvalid = s.dvalid := rfl
@[simp] theorem setDraws_err (n : Nat) (s : State) : (setDraws n s).err = s.err := rfl
@[simp] theorem setDraws_errcode (n : Nat) (s : State) : (setDraws n s).errcode = s.errcode := rfl
@[simp] theorem setDraws_infl (n : Nat) (s : State) : (setDraws n s).infl = s.infl := rfl
@[simp] theorem setDraws_profile (n : Nat) (s : State) : (setDraws n s).profile = s.profile := rfl
@[simp] theorem setDraws_host (n : Nat) (s : State) : (setDraws n s).host = s.host := rfl
@[simp] theorem setDraws_turns (n : Nat) (s : State) : (setDraws n s).turns = s.turns := rfl
@[simp] theorem setDraws_reads (n : Nat) (s : State) : (setDraws n s).reads = s.reads := rfl
@[simp] theorem setDraws_draws (n : Nat) (s : State) : (setDraws n s).draws = n := rfl

@[simp] theorem popHost_h (s : State) : (popHost s).h = s.h := rfl
@[simp] theorem popHost_buf (s : State) : (popHost s).buf = s.buf := rfl
@[simp] theorem popHost_len (s : State) : (popHost s).len = s.len := rfl
@[simp] theorem popHost_din (s : State) : (popHost s).din = s.din := rfl
@[simp] theorem popHost_dig (s : State) : (popHost s).dig = s.dig := rfl
@[simp] theorem popHost_dvalid (s : State) : (popHost s).dvalid = s.dvalid := rfl
@[simp] theorem popHost_err (s : State) : (popHost s).err = s.err := rfl
@[simp] theorem popHost_errcode (s : State) : (popHost s).errcode = s.errcode := rfl
@[simp] theorem popHost_infl (s : State) : (popHost s).infl = s.infl := rfl
@[simp] theorem popHost_profile (s : State) : (popHost s).profile = s.profile := rfl
@[simp] theorem popHost_host (s : State) : (popHost s).host = s.host.tail := rfl
@[simp] theorem popHost_turns (s : State) : (popHost s).turns = s.turns := rfl
@[simp] theorem popHost_reads (s : State) : (popHost s).reads = s.reads := rfl
@[simp] theorem popHost_draws (s : State) : (popHost s).draws = s.draws := rfl

@[simp] theorem popTurn_h (s : State) : (popTurn s).h = s.h := rfl
@[simp] theorem popTurn_buf (s : State) : (popTurn s).buf = s.buf := rfl
@[simp] theorem popTurn_len (s : State) : (popTurn s).len = s.len := rfl
@[simp] theorem popTurn_din (s : State) : (popTurn s).din = s.din := rfl
@[simp] theorem popTurn_dig (s : State) : (popTurn s).dig = s.dig := rfl
@[simp] theorem popTurn_dvalid (s : State) : (popTurn s).dvalid = s.dvalid := rfl
@[simp] theorem popTurn_err (s : State) : (popTurn s).err = s.err := rfl
@[simp] theorem popTurn_errcode (s : State) : (popTurn s).errcode = s.errcode := rfl
@[simp] theorem popTurn_infl (s : State) : (popTurn s).infl = s.infl := rfl
@[simp] theorem popTurn_profile (s : State) : (popTurn s).profile = s.profile := rfl
@[simp] theorem popTurn_host (s : State) : (popTurn s).host = s.host := rfl
@[simp] theorem popTurn_turns (s : State) : (popTurn s).turns = s.turns.tail := rfl
@[simp] theorem popTurn_reads (s : State) : (popTurn s).reads = s.reads := rfl
@[simp] theorem popTurn_draws (s : State) : (popTurn s).draws = s.draws := rfl

@[simp] theorem resetEvent_h (s : State) : (resetEvent s).h = iv := rfl
@[simp] theorem resetEvent_buf (s : State) : (resetEvent s).buf = [] := rfl
@[simp] theorem resetEvent_len (s : State) : (resetEvent s).len = 0 := rfl
@[simp] theorem resetEvent_din (s : State) : (resetEvent s).din = 0 := rfl
@[simp] theorem resetEvent_dig (s : State) : (resetEvent s).dig = Words8.ofFun (Config.freeDigest s.draws) := rfl
@[simp] theorem resetEvent_dvalid (s : State) : (resetEvent s).dvalid = false := rfl
@[simp] theorem resetEvent_err (s : State) : (resetEvent s).err = false := rfl
@[simp] theorem resetEvent_errcode (s : State) : (resetEvent s).errcode = 0 := rfl
@[simp] theorem resetEvent_infl (s : State) : (resetEvent s).infl = none := rfl
@[simp] theorem resetEvent_profile (s : State) : (resetEvent s).profile = s.profile := rfl
@[simp] theorem resetEvent_host (s : State) : (resetEvent s).host = s.host := rfl
@[simp] theorem resetEvent_turns (s : State) : (resetEvent s).turns = s.turns := rfl
@[simp] theorem resetEvent_reads (s : State) : (resetEvent s).reads = s.reads := rfl
@[simp] theorem resetEvent_draws (s : State) : (resetEvent s).draws = s.draws + 1 := rfl

@[simp] theorem raiseError_h (e : ErrorKind) (s : State) : (raiseError e s).h = s.h := by
  unfold raiseError; split <;> rfl
@[simp] theorem raiseError_buf (e : ErrorKind) (s : State) : (raiseError e s).buf = s.buf := by
  unfold raiseError; split <;> rfl
@[simp] theorem raiseError_len (e : ErrorKind) (s : State) : (raiseError e s).len = s.len := by
  unfold raiseError; split <;> rfl
@[simp] theorem raiseError_din (e : ErrorKind) (s : State) : (raiseError e s).din = s.din := by
  unfold raiseError; split <;> rfl
@[simp] theorem raiseError_dig (e : ErrorKind) (s : State) : (raiseError e s).dig = s.dig := by
  unfold raiseError; split <;> rfl
@[simp] theorem raiseError_dvalid (e : ErrorKind) (s : State) : (raiseError e s).dvalid = s.dvalid := by
  unfold raiseError; split <;> rfl
@[simp] theorem raiseError_infl (e : ErrorKind) (s : State) : (raiseError e s).infl = s.infl := by
  unfold raiseError; split <;> rfl
@[simp] theorem raiseError_profile (e : ErrorKind) (s : State) : (raiseError e s).profile = s.profile := by
  unfold raiseError; split <;> rfl
@[simp] theorem raiseError_host (e : ErrorKind) (s : State) : (raiseError e s).host = s.host := by
  unfold raiseError; split <;> rfl
@[simp] theorem raiseError_turns (e : ErrorKind) (s : State) : (raiseError e s).turns = s.turns := by
  unfold raiseError; split <;> rfl
@[simp] theorem raiseError_reads (e : ErrorKind) (s : State) : (raiseError e s).reads = s.reads := by
  unfold raiseError; split <;> rfl
@[simp] theorem raiseError_draws (e : ErrorKind) (s : State) : (raiseError e s).draws = s.draws := by
  unfold raiseError; split <;> rfl
@[simp] theorem raiseError_err (e : ErrorKind) (s : State) : (raiseError e s).err = true := by
  unfold raiseError; split <;> simp_all
@[simp] theorem raiseError_errcode (e : ErrorKind) (s : State) :
    (raiseError e s).errcode = if s.err then s.errcode else errorCode e := by
  unfold raiseError; split <;> simp_all

@[simp] theorem complete_din (s : State) : (complete s).din = s.din := by
  unfold complete jobEffect; split
  · rfl
  · split <;> rfl
@[simp] theorem complete_err (s : State) : (complete s).err = s.err := by
  unfold complete jobEffect; split
  · rfl
  · split <;> rfl
@[simp] theorem complete_errcode (s : State) : (complete s).errcode = s.errcode := by
  unfold complete jobEffect; split
  · rfl
  · split <;> rfl
@[simp] theorem complete_profile (s : State) : (complete s).profile = s.profile := by
  unfold complete jobEffect; split
  · rfl
  · split <;> rfl
@[simp] theorem complete_host (s : State) : (complete s).host = s.host := by
  unfold complete jobEffect; split
  · rfl
  · split <;> rfl
@[simp] theorem complete_turns (s : State) : (complete s).turns = s.turns := by
  unfold complete jobEffect; split
  · rfl
  · split <;> rfl
@[simp] theorem complete_reads (s : State) : (complete s).reads = s.reads := by
  unfold complete jobEffect; split
  · rfl
  · split <;> rfl
@[simp] theorem complete_draws (s : State) : (complete s).draws = s.draws := by
  unfold complete jobEffect; split
  · rfl
  · split <;> rfl
@[simp] theorem complete_infl (s : State) : (complete s).infl = none := by
  unfold complete; split <;> simp_all

@[simp] theorem State.setStream_stream (s : State) (st : Stream) : (s.setStream st).stream = st := rfl
@[simp] theorem clearError_stream (s : State) : (clearError s).stream = s.stream := rfl
@[simp] theorem acceptJob_stream (j : Job) (s : State) : (acceptJob j s).stream = s.stream := rfl
@[simp] theorem initEffect_stream (s : State) : (initEffect s).stream = initStream := rfl
@[simp] theorem absorbEffect_stream (n : Nat) (d : Word) (s : State) :
    (absorbEffect n d s).stream = update s.profile s.stream (operandBytes n d) := rfl
@[simp] theorem finalEffect_stream (s : State) : (finalEffect s).stream = s.stream := rfl
@[simp] theorem regRead_stream (off : Nat) (s : State) : (regRead off s).stream = s.stream := rfl
@[simp] theorem setDin_stream (v : Word) (s : State) : (setDin v s).stream = s.stream := rfl
@[simp] theorem popHost_stream (s : State) : (popHost s).stream = s.stream := rfl
@[simp] theorem popTurn_stream (s : State) : (popTurn s).stream = s.stream := rfl
@[simp] theorem resetEvent_stream (s : State) : (resetEvent s).stream = initStream := rfl
@[simp] theorem raiseError_stream (e : ErrorKind) (s : State) : (raiseError e s).stream = s.stream := by
  unfold raiseError; split <;> rfl

end Sys2Proof.Machine
end

