-- ==== Sys2Proof/Laws/Ops.lean ====
section
/-! SUPPORT. What each operation over the state can do, said once: command acceptance, one access, one step. -/

namespace Sys2Proof.Machine

theorem busy_iff (s : State) : s.busy = true ↔ s.infl ≠ none := by
  unfold State.busy; cases s.infl <;> simp

theorem not_busy_iff (s : State) : s.busy = false ↔ s.infl = none := by
  unfold State.busy; cases s.infl <;> simp

theorem lenWouldOverflow_iff (n : Nat) (s : State) : lenWouldOverflow n s = true ↔ 2 ^ 64 ≤ s.len.toNat + 8 * n := by
  simp [lenWouldOverflow]

/-- R202: everything raising an error can do. -/
theorem raiseError_cases (e : ErrorKind) (s : State) :
    (s.err = true ∧ raiseError e s = s) ∨
    (s.err = false ∧ raiseError e s = { s with err := true, errcode := errorCode e }) := by
  unfold raiseError; cases s.err <;> simp

/-- R150: everything a write of `v` to CMD can do, with the check that decides it. -/
inductive Accepted (v : Word) (s t : State) : Prop where
  | nop (hd : decode v = .ok .nop) (ht : t = s)
  | busy (hb : s.infl ≠ none) (hd : decode v ≠ .ok .nop) (ht : t = raiseError .cmdWhileBusy s)
  | illegal (hb : s.infl = none) (r : Illegal) (hd : decode v = .error r) (ht : t = raiseError .illegalCmd s)
  | locked (hb : s.infl = none) (he : s.err = true) (hd : decode v ≠ .ok .init) (ht : t = s)
  | overflow (hb : s.infl = none) (he : s.err = false) (n : Nat) (hd : decode v = .ok (.absorb n))
      (hl : 2 ^ 64 ≤ s.len.toNat + 8 * n) (ht : t = raiseError .lenOverflow s)
  | init (hb : s.infl = none) (hd : decode v = .ok .init) (ht : t = acceptJob .init (clearError s))
  | absorb (hb : s.infl = none) (he : s.err = false) (n : Nat) (hd : decode v = .ok (.absorb n))
      (hl : s.len.toNat + 8 * n < 2 ^ 64) (ht : t = acceptJob (.absorb n) s)
  | final (hb : s.infl = none) (he : s.err = false) (hd : decode v = .ok .final) (ht : t = acceptJob .final s)

theorem acceptCommand_cases (v : Word) (s : State) : ∃ t, acceptCommand v s = .next t ∧ Accepted v s t := by
  unfold acceptCommand
  cases hd : decode v with
  | error r =>
    refine ⟨_, rfl, ?_⟩
    cases hb : s.busy with
    | true => exact .busy ((busy_iff s).1 hb) (by simp [hd]) rfl
    | false => exact .illegal ((not_busy_iff s).1 hb) r hd rfl
  | ok i =>
    cases i with
    | nop => exact ⟨s, rfl, .nop hd rfl⟩
    | init =>
      simp only [exec, execInit]
      cases hb : s.busy with
      | true => exact ⟨_, rfl, .busy ((busy_iff s).1 hb) (by simp [hd]) rfl⟩
      | false => exact ⟨_, rfl, .init ((not_busy_iff s).1 hb) hd rfl⟩
    | absorb n =>
      simp only [exec, execAbsorb]
      cases hb : s.busy with
      | true => exact ⟨_, rfl, .busy ((busy_iff s).1 hb) (by simp [hd]) rfl⟩
      | false =>
        have hn := (not_busy_iff s).1 hb
        cases he : s.err with
        | true => exact ⟨_, rfl, .locked hn he (by simp [hd]) rfl⟩
        | false =>
          cases hl : lenWouldOverflow n s with
          | true => exact ⟨_, rfl, .overflow hn he n hd ((lenWouldOverflow_iff n s).1 hl) rfl⟩
          | false => exact ⟨_, rfl, .absorb hn he n hd (by simpa [lenWouldOverflow] using hl) rfl⟩
    | final =>
      simp only [exec, execFinal]
      cases hb : s.busy with
      | true => exact ⟨_, rfl, .busy ((busy_iff s).1 hb) (by simp [hd]) rfl⟩
      | false =>
        have hn := (not_busy_iff s).1 hb
        cases he : s.err with
        | true => exact ⟨_, rfl, .locked hn he (by simp [hd]) rfl⟩
        | false => exact ⟨_, rfl, .final hn he hd rfl⟩

theorem accepted_of_acceptCommand {v : Word} {s t : State} (h : acceptCommand v s = .next t) : Accepted v s t := by
  obtain ⟨t', h', ha⟩ := acceptCommand_cases v s
  rw [h'] at h
  cases h
  exact ha

/-- R56, R57: everything one access of the host can do. -/
inductive Accessed (a : Access) (s t : State) : Prop where
  | read (hk : a.kind = .read) (ht : t = regRead a.off s)
  | din (v : Word) (ha : a = ⟨0x08, 32, .write v⟩) (ht : t = setDin v s)
  | ignored (ht : t = s)
  | command (v : Word) (ha : a = ⟨0x00, 32, .write v⟩) (hc : Accepted v s t)

theorem accessed_of_performAccess {a : Access} {s t : State} (h : performAccess a s = .next t) : Accessed a s t := by
  obtain ⟨off, bits, kind⟩ := a
  simp only [performAccess] at h
  split at h
  · cases h
  split at h
  · cases h
  split at h
  · cases h
  rename_i hbits _ _
  obtain rfl : bits = 32 := by simpa using hbits
  cases kind with
  | read => cases h; exact .read rfl rfl
  | write v =>
    simp only [regWrite] at h
    split at h
    · rename_i h0; subst h0; exact .command v rfl (accepted_of_acceptCommand h)
    · split at h
      · rename_i h8; subst h8; cases h; exact .din v rfl rfl
      · cases h; exact .ignored rfl

/-- R58: an access in contract has a next state. -/
theorem performAccess_next (a : Access) (s : State) (h : a.inContract = true) : ∃ t, performAccess a s = .next t := by
  obtain ⟨off, bits, kind⟩ := a
  simp only [Access.inContract, Bool.and_eq_true, decide_eq_true_eq] at h
  obtain ⟨⟨hb, ho⟩, hm⟩ := h
  simp only [performAccess, hb, hm, ne_eq, not_true_eq_false, if_false, if_neg (Nat.not_le.2 ho)]
  cases kind with
  | read => exact ⟨_, rfl⟩
  | write v =>
    simp only [regWrite]
    split
    · obtain ⟨t, ht, -⟩ := acceptCommand_cases v s; exact ⟨t, ht⟩
    · split <;> exact ⟨_, rfl⟩

/-- R20: everything one step can do, with the agent whose turn it is. -/
inductive Stepped (s t : State) : Prop where
  | core (hn : nextTurn s = .core) (ht : t = complete (popTurn s))
  | reset (hn : nextTurn s = .reset) (ht : t = resetEvent (popTurn s))
  | idle (hn : nextTurn s = .host) (hh : s.host = []) (ht : t = popTurn s)
  | access (hn : nextTurn s = .host) (a : Access) (rest : List HostOp) (hh : s.host = .access a :: rest)
      (ha : Accessed a (popHost (popTurn s)) t)
  | poll (hn : nextTurn s = .host) (rest : List HostOp) (hh : s.host = .poll :: rest)
      (ht : t = regRead 0x04 (if s.busy then popTurn s else popHost (popTurn s)))

theorem stepped_of_step {s t : State} (h : step s = .next t) : Stepped s t := by
  unfold step at h
  cases hn : nextTurn s with
  | core => rw [hn] at h; cases h; exact .core hn rfl
  | reset => rw [hn] at h; cases h; exact .reset hn rfl
  | secondHost => rw [hn] at h; cases h
  | host =>
    rw [hn] at h
    simp only [takeTurn, hostStep, popTurn_host] at h
    split at h
    · rename_i hh; cases h; exact .idle hn hh rfl
    · rename_i a rest hh; exact .access hn a rest hh (accessed_of_performAccess h)
    · rename_i rest hh; cases h; exact .poll hn rest hh rfl

/-- R150: what command acceptance leaves alone, whatever it decides. -/
theorem Accepted.frame {v : Word} {s t : State} (h : Accepted v s t) :
    t.h = s.h ∧ t.buf = s.buf ∧ t.len = s.len ∧ t.dig = s.dig ∧ t.din = s.din ∧ t.profile = s.profile ∧
      t.host = s.host ∧ t.turns = s.turns ∧ t.reads = s.reads ∧ t.draws = s.draws := by
  cases h <;> rename_i ht <;> subst ht <;> simp

/-- R56, R57: what an access of the host leaves alone, whatever it is. -/
theorem Accessed.frame {a : Access} {s t : State} (h : Accessed a s t) :
    t.h = s.h ∧ t.buf = s.buf ∧ t.len = s.len ∧ t.dig = s.dig ∧ t.profile = s.profile ∧ t.host = s.host ∧
      t.turns = s.turns ∧ s.draws ≤ t.draws := by
  cases h with
  | read _ ht => subst ht; simp; split <;> omega
  | din _ _ ht => subst ht; simp
  | ignored ht => subst ht; simp
  | command v _ hc =>
    obtain ⟨h1, h2, h3, h4, -, h6, h7, h8, -, h10⟩ := hc.frame
    simp [*]

/-- R151: everything a completion can do, by the command in flight. -/
theorem complete_cases (s : State) :
    (s.infl = none ∧ complete s = s) ∨
    (∃ d, s.infl = some ⟨.init, d⟩ ∧ complete s = { initEffect s with infl := none }) ∨
    (∃ n d, s.infl = some ⟨.absorb n, d⟩ ∧ complete s = { absorbEffect n d s with infl := none }) ∨
    (∃ d, s.infl = some ⟨.final, d⟩ ∧ complete s = { finalEffect s with infl := none }) := by
  unfold complete
  cases hi : s.infl with
  | none => simp
  | some f => obtain ⟨j, d⟩ := f; cases j <;> simp [jobEffect]

end Sys2Proof.Machine
end

