-- ==== Sys2Proof/Laws/PerInstr.lean ====
section
/-! SUPPORT. Statements about every command as syntax, one lemma per constructor. -/

namespace Sys2Proof

/-- R71, R72: the encoding of a command has RSVD 0, the command's OP, and NB 0 unless the command is ABSORB (R73). -/
def Laws.EncodedFields.Statement (i : Instr) : Prop :=
  rsvdField (encode i) = 0 ∧
    match i with
    | .nop => opField (encode i) = 0x0 ∧ nbField (encode i) = 0
    | .init => opField (encode i) = 0x1 ∧ nbField (encode i) = 0
    | .absorb n => opField (encode i) = 0x2 ∧ nbField (encode i) = BitVec.ofNat 2 (n - 1)
    | .final => opField (encode i) = 0x3 ∧ nbField (encode i) = 0

/-- A word built of NB and OP has RSVD 0 and those two fields. -/
theorem Laws.EncodedFields.fields_of_commandWord : ∀ (nb : BitVec 2) (op : BitVec 4),
    rsvdField (commandWord nb op) = 0 ∧ opField (commandWord nb op) = op ∧ nbField (commandWord nb op) = nb := by decide

theorem Laws.EncodedFields.nop : Laws.EncodedFields.Statement .nop :=
  Laws.EncodedFields.fields_of_commandWord 0 0x0

theorem Laws.EncodedFields.init : Laws.EncodedFields.Statement .init :=
  Laws.EncodedFields.fields_of_commandWord 0 0x1

theorem Laws.EncodedFields.absorb (n : Nat) : Laws.EncodedFields.Statement (.absorb n) :=
  Laws.EncodedFields.fields_of_commandWord (BitVec.ofNat 2 (n - 1)) 0x2

theorem Laws.EncodedFields.final : Laws.EncodedFields.Statement .final :=
  Laws.EncodedFields.fields_of_commandWord 0 0x3

end Sys2Proof
end

