-- ==== Sys2Proof/Laws/System.lean ====
section
/-! SUPPORT. A row of instances: its updates field by field, and what one step of it can do, said once. -/

namespace Sys2Proof.Machine

@[simp] theorem System.instances_setInstance (k : Nat) (s : State) (y : System) :
    (y.setInstance k s).instances = y.instances.set k s := by
  cases k <;> rfl
@[simp] theorem System.events_setInstance (k : Nat) (s : State) (y : System) : (y.setInstance k s).events = y.events := by
  cases k <;> rfl
@[simp] theorem System.instances_popEvent (y : System) : y.popEvent.instances = y.instances := rfl
@[simp] theorem System.events_popEvent (y : System) : y.popEvent.events = y.events.tail := rfl
@[simp] theorem System.draws_setInstance (k : Nat) (s : State) (y : System) : (y.setInstance k s).draws = s.draws := by
  cases k <;> rfl
@[simp] theorem System.draws_popEvent (y : System) : y.popEvent.draws = y.draws := rfl
theorem System.instances_ne_nil (y : System) : y.instances ≠ [] := List.cons_ne_nil _ _

/-- The event that a row takes: its first one. -/
theorem System.nextEvent_cons {y : System} {e : SysEvent} {es : List SysEvent} (h : y.events = e :: es) :
    y.nextEvent = some e := by
  simp only [System.nextEvent, h]

/-- A step of a row that reaches instance `k`, when its action on that instance answers a next state. -/
theorem System.step_of_action {y : System} {e : SysEvent} {k : Nat} {s t : State} (he : y.nextEvent = some e)
    (hk : eventTarget y.instances.length e = some k) (hs : y.instances[k]? = some s)
    (ht : eventAction k e (setDraws y.draws s) = .next t) : y.step = .next (y.popEvent.setInstance k t) := by
  simp only [System.step, he, hk, System.actOn, System.instances_popEvent, System.draws_popEvent, hs, ht]

/-- Everything a step of a row can do when it answers a next row: nothing, when there is no event and nothing is in flight; else
the action of the event on the one instance it reaches. -/
theorem System.step_cases {y z : System} (h : y.step = .next z) :
    (y.nextEvent = none ∧ z = y) ∨
    ∃ e k s t, y.nextEvent = some e ∧ eventTarget y.instances.length e = some k ∧ y.instances[k]? = some s ∧
      eventAction k e (setDraws y.draws s) = .next t ∧ z = y.popEvent.setInstance k t := by
  cases he : y.nextEvent with
  | none => simp only [System.step, he] at h; cases h; exact .inl ⟨rfl, rfl⟩
  | some e =>
    right
    cases hk : eventTarget y.instances.length e with
    | none => simp only [System.step, he, hk] at h; cases h
    | some k =>
      cases hs : y.instances[k]? with
      | none => simp only [System.step, he, hk, System.actOn, System.instances_popEvent, hs] at h; cases h
      | some s =>
        cases ht : eventAction k e (setDraws y.draws s) with
        | next t =>
          rw [System.step_of_action he hk hs ht] at h
          cases h
          exact ⟨e, k, s, t, rfl, hk, hs, ht, rfl⟩
        | fault r => cases r
        | refused r =>
          simp only [System.step, he, hk, System.actOn, System.instances_popEvent, System.draws_popEvent, hs, ht] at h
          cases h

end Sys2Proof.Machine
end

