-- ==== Sys2Proof/Tests/Slice0.lean ====
section
/-! SUPPORT. Tests of the model against the vectors of 95_test_vectors.md (V-..) and the encodings of R72, and, for every
obligation with hypotheses, a concrete state and operands that meet them. -/

namespace Sys2Proof.Tests

open Sys2Proof.Machine

/-! ### Well-formedness -/

theorem test_illformed_absorb_zero : (Instr.absorb 0).wf = false := by decide
theorem test_illformed_absorb_five : (Instr.absorb 5).wf = false := by decide
theorem test_wellformed_absorb_four : (Instr.absorb 4).wf = true := by decide

/-! ### Decoding: words written out from R71 and R72 (RSVD, NB, OP); V-DEC-1 to V-DEC-9 -/

theorem test_decode_nop : decodeTableWord 32 0b00000000000000000000000000_00_0000 = some .nop := by decide
theorem test_decode_init : decodeTableWord 32 0b00000000000000000000000000_00_0001 = some .init := by decide
theorem test_decode_absorb1 : decodeTableWord 32 0b00000000000000000000000000_00_0010 = some (.absorb 1) := by decide
theorem test_decode_absorb2 : decodeTableWord 32 0b00000000000000000000000000_01_0010 = some (.absorb 2) := by decide
theorem test_decode_absorb3 : decodeTableWord 32 0b00000000000000000000000000_10_0010 = some (.absorb 3) := by decide
theorem test_decode_absorb4 : decodeTableWord 32 0b00000000000000000000000000_11_0010 = some (.absorb 4) := by decide
theorem test_decode_final : decodeTableWord 32 0b00000000000000000000000000_00_0011 = some .final := by decide
theorem test_decode_init_with_nb : decode 0x00000011 = .error .nbNonzero := by rfl
theorem test_decode_nop_with_nb : decode 0x00000010 = .error .nbNonzero := by rfl
theorem test_decode_reserved_op : decode 0x0000000f = .error .reservedOp := by rfl
theorem test_decode_absorb_bit6 : decode 0x00000042 = .error .rsvdNonzero := by rfl
theorem test_decode_final_bit31 : decode 0x80000003 = .error .rsvdNonzero := by rfl
theorem test_encode_absorb3 : encode (.absorb 3) = 0x00000022 := by decide

/-! ### Datapath vectors, under the default profile where one matters -/

/-- V-PRIM-3. -/
theorem test_rotr : rotr 0x12345678 6 = 0xe048d159 := by decide
/-- V-PRIM-4 and V-PRIM-5. -/
theorem test_big_sigmas : bigSigma1 0x510e527f = 0x3587272b ∧ bigSigma0 0x6a09e667 = 0xce20b47e := by decide
/-- V-PRIM-6 and V-PRIM-7. -/
theorem test_choose_majority :
    chooseBits 0x510e527f 0x9b05688c 0x1f83d9ab = 0x1f85c98c ∧
      majority 0x6a09e667 0xbb67ae85 0x3c6ef372 = 0x3a6fe667 := by decide
/-- V-PRIM-12. -/
theorem test_sigma0 : sigma0 0x61626380 = 0x940e90ef := by decide
/-- V-PAD-3. -/
theorem test_pad_abc :
    pad [0x61, 0x62, 0x63] 24 =
      [0x61, 0x62, 0x63, 0x80] ++ List.replicate 52 0 ++ [0, 0, 0, 0, 0, 0, 0, 0x18] := by decide +kernel
/-- V-PAD-56: the 56-byte cutoff. -/
theorem test_pad_56 :
    pad (List.replicate 56 0x61) 448 =
      List.replicate 56 0x61 ++ [0x80] ++ List.replicate 63 0 ++ [0, 0, 0, 0, 0, 0, 0x01, 0xc0] := by decide +kernel
/-- V-SCH-3. -/
theorem test_schedule_abc :
    ((schedule .defaultProfile (pad [0x61, 0x62, 0x63] 24)).drop 16).take 4 =
        [0x61626380, 0x000f0000, 0x7da86405, 0x600003c6] ∧
      (schedule .defaultProfile (pad [0x61, 0x62, 0x63] 24))[63]? = some 0x12b1edeb := by decide +kernel
/-- V-CMP-3r0. -/
theorem test_round0_abc :
    roundStep .defaultProfile 0 iv 0x61626380 =
      ⟨0x5d6aebcd, 0x6a09e667, 0xbb67ae85, 0x3c6ef372, 0xfa2a4622, 0x510e527f, 0x9b05688c, 0x1f83d9ab⟩ := by decide
/-- V-CMP-0. -/
theorem test_compress_zero_schedule :
    compress .defaultProfile iv (List.replicate 64 0) =
      ⟨0xda5698be, 0x17b9b469, 0x62335799, 0x779fbeca, 0x8ce5d491, 0xc0d26243, 0xbafef9ea, 0x1837a9d8⟩ := by decide +kernel
/-- V-ENG-3 with R171 and R172: `hash_string` of the text abc. -/
theorem test_hash_string_abc :
    hashString .defaultProfile ['a', 'b', 'c'] =
      "ba7816bf8f01cfea414140de5dae2223b00361a396177a9cb410ff61f20015ad".toList := by decide +kernel
/-- V-ENG-56: two blocks of padding. -/
theorem test_hash_56 :
    hashBytes .defaultProfile (List.replicate 56 0x61) =
      "b35439a4ac6f0948b6d6f9e3c6af0f5f590ce20f1bde7090ef7970686ec6738a".toList := by decide +kernel
/-- V-ENG-65: one block in Update, one in Final. -/
theorem test_hash_65 :
    hashBytes .defaultProfile (List.replicate 65 0x61) =
      "635361c48bb9eab14198e76ea8ab7f1a41685d6ad62aa9146d301d4f17eb0ae0".toList := by decide +kernel

/-! ### Small states -/

/-- A check of the state that a step gives; a stop fails it. -/
def nextIs (o : Host.Outcome State Fault Refusal) (f : State → Bool) : Bool :=
  match o with
  | .next t => f t
  | .fault _ => false
  | .refused _ => false

/-- Whether the event has no step. -/
def isRefused (o : Host.Outcome State Fault Refusal) : Bool :=
  match o with
  | .refused _ => true
  | .next _ => false
  | .fault _ => false

/-- Locked by an ILLEGAL_CMD (after V-IF-2). -/
def lockedState : State := { State.reset with err := true, errcode := 1 }

/-- FINAL in flight on the empty stream. -/
def busyState : State := { State.reset with infl := some ⟨.final, 0⟩ }

/-- The start of V-IF-9: one ABSORB of 2 bytes overflows LEN, one of 1 byte does not. -/
def fullState : State := { State.reset with len := 0xfffffffffffffff0, buf := List.replicate 62 0x61 }

/-- An ABSORB of one byte in flight. -/
def absorbingState : State := { State.reset with infl := some ⟨.absorb 1, 0x61000000⟩ }

/-! ### One step each, two a command at most -/

/-- R152: a NOP written while busy leaves the error fields alone. -/
theorem test_nop_while_busy : nextIs (step (busyState.withFetchWord 32 0)) (fun t => statusWord t = 0x1) = true := by decide
/-- V-IF-5: INIT is accepted while locked, and STATUS shows BUSY only. -/
theorem test_init_unlocks : nextIs (step (lockedState.withFetchWord 32 1)) (fun t => statusWord t = 0x1) = true := by decide
/-- V-IF-9: LEN_OVERFLOW, STATUS 0x34. -/
theorem test_absorb_overflow : nextIs (step (fullState.withFetchWord 32 0x12)) (fun t => statusWord t = 0x34) = true := by
  decide
/-- V-IF-10: the ABSORB of one byte less is accepted; its completion leaves 63 bytes and LEN = 2^64 - 8. -/
theorem test_absorb_up_to_the_limit :
    nextIs (exec (.absorb 1) { fullState with din := 0x61000000 }) (fun t =>
      (complete t).len = 0xfffffffffffffff8 && (complete t).buf = List.replicate 63 0x61) = true := by decide +kernel
/-- V-IF-3: FINAL is dropped while locked. -/
theorem test_final_while_locked : nextIs (step (lockedState.withFetchWord 32 3)) (fun t => statusWord t = 0x14) = true := by
  decide
/-- P1: FINAL after "abc" writes the digest of V-ENG-3. -/
theorem test_final_abc :
    nextIs (exec .final { State.reset with buf := [0x61, 0x62, 0x63], len := 24 }) (fun t =>
      (complete t).dig =
        ⟨0xba7816bf, 0x8f01cfea, 0x414140de, 0x5dae2223, 0xb00361a3, 0x96177a9c, 0xb410ff61, 0xf20015ad⟩ &&
      statusWord (complete t) = 0x2) = true := by decide +kernel
/-- V-IF-2. -/
theorem test_illegal_word : nextIs (step (State.reset.withFetchWord 32 4)) (fun t => statusWord t = 0x14) = true := by decide
/-- V-IF-6: a command while INIT is in flight. -/
theorem test_command_while_busy :
    nextIs (step ({ State.reset with infl := some ⟨.init, 0⟩ }.withFetchWord 32 3)) (fun t => statusWord t = 0x25) = true := by
  decide
/-- V-IF-13: a read of CMD gives 0. -/
theorem test_read_cmd : nextIs (performAccess ⟨0x00, 32, .read⟩ lockedState) (fun t => t.reads = [0]) = true := by decide
/-- R58: a sub-word access has no step. -/
theorem test_byte_access_refused : isRefused (performAccess ⟨0x08, 8, .read⟩ State.reset) = true := by decide
/-- R76: a line of text. -/
theorem test_read_line :
    readLine "WR CMD, ABSORB 3      # 0x00 <- 0x00000022".toList = some [.wrCmd (.absorb 3)] := by decide +kernel

/-! ### Witnesses: for every obligation with hypotheses, values that meet them all -/

theorem reset_inv : State.reset.Inv :=
  ⟨by decide, by decide, by decide, by decide, by decide, by decide, by intro n d h; cases h⟩

theorem reset_genuine : State.reset.Genuine :=
  ⟨[], ⟨by decide, by decide⟩, by (intro n d h; cases h), fun _ => rfl, fun h => by cases h⟩

theorem witness_DecodeFollowsThePseudocode :
    ((0x12 : Word).extractLsb' 6 26 = 0 ∧ (0x12 : Word).extractLsb' 0 4 = 0x2) ∧
      ((0x42 : Word) ≠ 0 ∧ (0x42 : Word) ≠ 1 ∧
        ¬((0x42 : Word).extractLsb' 6 26 = 0 ∧ (0x42 : Word).extractLsb' 0 4 = 0x2) ∧ (0x42 : Word) ≠ 3) := by decide
theorem witness_EncodeAndDecodeAreInverse : WellFormed (.absorb 4) ∧ decode 0x32 = .ok (.absorb 4) := ⟨by decide, rfl⟩
theorem witness_IllegalWordsRaiseIllegalCmd : decode 0x0f = .error .reservedOp ∧ State.reset.infl = none := ⟨rfl, rfl⟩
theorem witness_acceptance_nop_busy_illegal :
    decode 0 = .ok .nop ∧ decode 3 ≠ .ok .nop ∧ busyState.infl ≠ none ∧ decode 0x42 = .error .rsvdNonzero ∧
      State.reset.infl = none := ⟨rfl, fun h => (by cases (show Except.ok Instr.final = Except.ok Instr.nop from h)), by decide, rfl, rfl⟩
theorem witness_acceptance_locked :
    decode 3 = .ok .final ∧ lockedState.infl = none ∧ lockedState.err = true ∧ decode 1 = .ok .init := ⟨rfl, rfl, rfl, rfl⟩
theorem witness_acceptance_overflow :
    decode 0x12 = .ok (.absorb 2) ∧ fullState.infl = none ∧ fullState.err = false ∧
      2 ^ 64 ≤ fullState.len.toNat + 8 * 2 := ⟨rfl, rfl, rfl, by decide⟩
theorem witness_acceptance_absorb :
    decode 0x02 = .ok (.absorb 1) ∧ fullState.infl = none ∧ fullState.err = false ∧
      fullState.len.toNat + 8 * 1 < 2 ^ 64 := ⟨rfl, rfl, rfl, by decide⟩
theorem witness_acceptance_final : decode 3 = .ok .final ∧ State.reset.infl = none ∧ State.reset.err = false := ⟨rfl, rfl, rfl⟩
theorem witness_LockedEngineTakesOnlyInit :
    lockedState.err = true ∧ decode 3 ≠ .ok .init ∧ decode 1 = .ok .init ∧ lockedState.infl = none :=
  ⟨rfl, fun h => (by cases (show Except.ok Instr.final = Except.ok Instr.init from h)), rfl, rfl⟩
theorem witness_HostCannotDisturbCommandInFlight :
    absorbingState.infl ≠ none ∧ performAccess ⟨0x08, 32, .write 7⟩ absorbingState = .next (setDin 7 absorbingState) :=
  ⟨by decide, by simp [performAccess, regWrite]⟩
theorem witness_error_changes :
    ∃ s t, step s = .next t ∧ t.err ≠ s.err := ⟨State.reset.withFetchWord 32 4, _, rfl, by decide⟩
theorem witness_error_clears :
    ∃ s t, step s = .next t ∧ t.errcode ≠ s.errcode := ⟨lockedState.withFetchWord 32 1, _, rfl, by decide⟩
theorem witness_NopChangesNothing : (0x10 : Word).extractLsb' 0 4 = 0 ∧ (0x10 : Word) ≠ 0 := by decide
theorem witness_InitStartsANewStream : State.reset.infl = none := rfl
/-- A state for ABSORB and FINAL with `k` bytes buffered. -/
def bufferedState (k : Nat) : State :=
  { State.reset with buf := List.replicate k 0x61, len := BitVec.ofNat 64 (8 * k) }

theorem witness_absorb_fills_the_block :
    1 ≤ 1 ∧ 1 ≤ 4 ∧ (bufferedState 63).buf.length ≤ 63 ∧ (bufferedState 63).infl = none ∧
      (bufferedState 63).err = false ∧ (bufferedState 63).len.toNat + 8 * 1 < 2 ^ 64 ∧
      64 ≤ (bufferedState 63).buf.length + 1 := by decide
theorem witness_absorb_stays_below :
    1 ≤ 4 ∧ 4 ≤ 4 ∧ (bufferedState 59).buf.length ≤ 63 ∧ (bufferedState 59).infl = none ∧
      (bufferedState 59).err = false ∧ (bufferedState 59).len.toNat + 8 * 4 < 2 ^ 64 ∧
      (bufferedState 59).buf.length + 4 < 64 := by decide
theorem witness_final_one_block :
    (bufferedState 55).buf.length ≤ 63 ∧ (bufferedState 55).infl = none ∧ (bufferedState 55).err = false ∧
      (bufferedState 55).buf.length ≤ 55 := by decide
theorem witness_final_two_blocks :
    (bufferedState 56).buf.length ≤ 63 ∧ (bufferedState 56).infl = none ∧ (bufferedState 56).err = false ∧
      56 ≤ (bufferedState 56).buf.length := by decide
theorem witness_FinalIsRepeatable : (bufferedState 56).infl = none ∧ (bufferedState 56).err = false := by decide
theorem witness_AbsorbAfterFinalContinues :
    1 ≤ 4 ∧ 4 ≤ 4 ∧ State.reset.infl = none ∧ State.reset.err = false ∧ State.reset.len.toNat + 8 * (4 + 4) < 2 ^ 64 := by
  decide
theorem witness_CompletionFrame :
    busyState.infl = some ⟨.final, 0⟩ ∧ absorbingState.infl = some ⟨.absorb 1, 0x61000000⟩ ∧ State.reset.infl = none := by
  decide
theorem witness_PaddingLayout :
    (List.replicate 55 (0 : Byte)).length ≤ 55 ∧ 56 ≤ (List.replicate 56 (0 : Byte)).length ∧
      (List.replicate 63 (0 : Byte)).length ≤ 63 := by decide
theorem witness_ScheduleExpandsTheBlock : (List.replicate 64 (0 : Byte)).length = 64 := by decide
theorem witness_CompressRunsSixtyFourRounds : (List.replicate 64 (0 : Word)).length = 64 := by decide
theorem witness_UpdateConsumesFullBlocks :
    initStream.buf.length ≤ 63 ∧ fullState.stream.len.toNat + 8 * ([0x61] : List Byte).length < 2 ^ 64 := by decide
theorem witness_ChunkingDoesNotMatter :
    initStream.len.toNat + 8 * (([0x61] : List Byte).length + ([0x62, 0x63] : List Byte).length) < 2 ^ 64 ∧
      8 * ([[0x61], [0x62, 0x63]] : List (List Byte)).flatten.length < 2 ^ 64 := by decide
theorem witness_DigestSerialisation : 8 * ([0x61, 0x62, 0x63] : List Byte).length < 2 ^ 64 ∧ 7 < 8 ∧ 3 < 4 := by decide
theorem witness_din_lanes :
    (0x61620000 : Word) >>> (32 - 8 * 2) = (0x6162ffff : Word) >>> (32 - 8 * 2) ∧
      (List.replicate 60 (0 : Byte)).length = 4 * 15 := by decide
theorem witness_digest_reads :
    0x2C = 0x10 + 4 * 7 ∧ ({ State.reset with dvalid := true } : State).dvalid = true ∧ State.reset.dvalid = false ∧
      0x2C < 0x40 ∧ 0x2C % 4 = 0 := by decide
theorem witness_accesses_without_a_step :
    (⟨0x08, 16, .read⟩ : Access).bits ≠ 32 ∧ (⟨0x06, 32, .read⟩ : Access).off % 4 ≠ 0 ∧
      0x40 ≤ (⟨0x40, 32, .read⟩ : Access).off ∧ (⟨0x3C, 32, .read⟩ : Access).off < 0x40 := by decide
theorem witness_StreamStateIsHidden :
    (∃ t, performAccess ⟨0x08, 32, .write 1⟩ State.reset = .next t) ∧
      State.reset.dig = fullState.dig ∧ State.reset.buf ≠ fullState.buf ∧ State.reset.draws = fullState.draws :=
  ⟨⟨setDin 1 State.reset, by simp [performAccess, regWrite]⟩, by decide⟩
theorem witness_SecondHostHasNoStep : ({ State.reset with turns := [.secondHost] } : State).turns = .secondHost :: [] := rfl
theorem witness_StepRunsTheDecodedCommand :
    nextTurn (State.reset.withCommand 0x22) = .host ∧ (State.reset.withCommand 0x22).host = commandWrite 0x22 :: [] ∧
      decode 0x22 = .ok (.absorb 3) ∧ decodeTableWord 32 0x22 = some (.absorb 3) := ⟨rfl, rfl, rfl, by decide⟩
theorem witness_CoreTurnCompletes :
    ({ busyState with turns := [.core] } : State).turns = .core :: [] ∧ busyState.turns = [] ∧ busyState.infl ≠ none := by
  decide
theorem witness_CommandInFlightCompletes :
    (∀ t ∈ ([.host, .host, .core] : List Turn), t = .host ∨ t = .core) ∧
      (∀ o ∈ ([.poll, commandWrite 3] : List HostOp), o.inContract = true) ∧ busyState.infl ≠ none := by decide
theorem witness_reset_turn : ({ busyState with turns := [.reset] } : State).turns = .reset :: [] := rfl
theorem witness_core_writes_H :
    ∃ s t, step s = .next t ∧ t.h ≠ s.h :=
  ⟨{ State.reset with h := ⟨0, 0, 0, 0, 0, 0, 0, 0⟩, infl := some ⟨.init, 0⟩ }, _, rfl, by decide⟩
theorem witness_steps_with_invariants :
    State.reset.Inv ∧ State.reset.Genuine ∧ ∃ t, step State.reset = .next t := ⟨reset_inv, reset_genuine, _, rfl⟩
theorem witness_DigestValidIsWrittenInThreeWays :
    ∃ s t, step s = .next t ∧ t.dvalid ≠ s.dvalid := ⟨busyState, _, rfl, by decide +kernel⟩
theorem witness_InstancesAreIsolated :
    ∃ (y z : System) (e : SysEvent) (es : List SysEvent), y.events = e :: es ∧ y.nextEvent = some e ∧ y.step = .next z ∧
      y.instances.length = 2 :=
  ⟨⟨busyState, [State.reset], [.core 0], 0⟩, _, _, _, rfl, rfl, rfl, rfl⟩
/-- R151, R228: with the events used up, the command in flight in instance 1 completes. -/
theorem test_row_completes :
    ∃ z, System.step ⟨State.reset, [absorbingState], [], 0⟩ = .next z ∧ (z.instances[1]?).map State.busy = some false :=
  ⟨_, rfl, by decide +kernel⟩
theorem witness_WindowAccessReachesItsInstance :
    ∃ y : System, y.instances[0]? = some State.reset ∧ 0x3C < 0x40 ∧ 0x3C % 4 = 0 ∧
      (∀ j, j < y.instances.length → j ≠ 0 →
        windowBase j + 0x40 ≤ windowBase 0 ∨ windowBase 0 + 0x40 ≤ windowBase j) ∧
      y.events = .access (windowBase 0 + 0x3C) 32 .read :: [] := by
  refine ⟨⟨State.reset, [], [.access (windowBase 0 + 0x3C) 32 .read], 0⟩, rfl, by decide, by decide, ?_, rfl⟩
  intro j hj h0
  simp only [System.instances, List.length_singleton] at hj
  omega
theorem witness_SystemStepKeepsTheInvariants :
    (⟨State.reset, [], [], 0⟩ : System).Inv ∧ ∃ z, System.step ⟨State.reset, [], [], 0⟩ = .next z := by
  refine ⟨?_, _, rfl⟩
  intro s hs
  simp only [System.instances, List.mem_singleton] at hs
  subst hs
  exact reset_inv
theorem witness_RowCommandInFlightCompletes :
    ∃ y : System, (∀ e ∈ y.events, e.inContract y.instances.length = true ∧ e ≠ .reset 1) ∧
      y.instances[1]? = some absorbingState ∧ absorbingState.infl ≠ none ∧ y.events.length = 2 :=
  ⟨⟨busyState, [absorbingState], [.core 0, .reset 0], 0⟩, by decide, rfl, by decide, rfl⟩
theorem witness_assembler_lines :
    7 < 8 ∧ ({ State.reset with host := [commandWrite 3] } : State).host = .access ⟨0x00, 32, .write 3⟩ :: [] := by decide
theorem witness_UpdateFeedsItsBytes : 1 ≤ ([0x61] : List Byte).length ∧ ([1, 2, 3, 4] : List Byte).length ≤ 4 := by decide
theorem witness_poll : ({ busyState with host := [.poll] } : State).host = .poll :: [] := rfl
theorem witness_HexDigestRendering : ([0x61] : List Byte)[0]? = some 0x61 := rfl
theorem witness_RegisterReads_and_RegisterWrites : 0x3C < 0x40 ∧ 0x3C % 4 = 0 ∧ 0x00 < 0x40 ∧ 0x00 % 4 = 0 := by decide
/-- The ranges of the bit, rotation and index statements at their ends. -/
theorem witness_ranges :
    (1 ≤ 31 ∧ 31 ≤ 31 ∧ 31 < 32) ∧ (0 < 31 ∧ 31 < 32) ∧ (7 < 8 ∧ 3 < 4) ∧ (16 ≤ 63 ∧ 63 < 64) ∧ 15 < 16 := by decide

/-- A host program that hashes `chunks`, to run under the interleaving `ts`. -/
def hashingState (chunks : List (List Byte)) (ts : List Turn) : State :=
  { State.reset with host := assemble (hashChunkLines chunks), turns := ts }

theorem witness_HashProgramComputesTheDigest :
    (hashingState [[0x61, 0x62], [0x63]] [.host, .core, .host]).infl = none ∧
      (hashingState [[0x61, 0x62], [0x63]] [.host, .core, .host]).host =
        assemble (hashChunkLines [[0x61, 0x62], [0x63]]) ∧
      (∀ t ∈ (hashingState [[0x61, 0x62], [0x63]] [.host, .core, .host]).turns, t = .host ∨ t = .core) ∧
      (∀ c ∈ ([[0x61, 0x62], [0x63]] : List (List Byte)), 1 ≤ c.length ∧ c.length ≤ 4) ∧
      8 * ([[0x61, 0x62], [0x63]] : List (List Byte)).flatten.length < 2 ^ 64 :=
  ⟨rfl, rfl, by decide, by decide, by decide⟩
theorem witness_DigestIndependentOfLatencyAndChunking :
    (hashingState [[0x61, 0x62], [0x63]] [.core]).profile = (hashingState [[0x61], [0x62, 0x63]] []).profile ∧
      (hashingState [[0x61], [0x62, 0x63]] []).infl = none ∧
      (hashingState [[0x61], [0x62, 0x63]] []).host = assemble (hashChunkLines [[0x61], [0x62, 0x63]]) ∧
      (∀ t ∈ (hashingState [[0x61, 0x62], [0x63]] [.core]).turns, t = .host ∨ t = .core) ∧
      (∀ t ∈ (hashingState [[0x61], [0x62, 0x63]] []).turns, t = .host ∨ t = .core) ∧
      (∀ c ∈ ([[0x61], [0x62, 0x63]] : List (List Byte)), 1 ≤ c.length ∧ c.length ≤ 4) ∧
      ([[0x61, 0x62], [0x63]] : List (List Byte)).flatten = ([[0x61], [0x62, 0x63]] : List (List Byte)).flatten :=
  ⟨rfl, rfl, rfl, by decide, by decide, by decide, rfl⟩

end Sys2Proof.Tests
end

section
/-! The byte-order helpers of R14, R51 and R52: `BE32` and `BE32bytes` are inverse, and `BE64bytes` weighs its bytes. -/

namespace Sys2Proof.Machine

/-- R14: `BE32` puts a word together from its four byte lanes. -/
@[simp] theorem be32_byteLane (w : Word) :
    be32 (byteLane w 0) (byteLane w 1) (byteLane w 2) (byteLane w 3) = w := by
  apply BitVec.eq_of_toNat_eq
  have hw := w.isLt
  simp only [be32_toNat, byteLane_toNat]
  omega

/-- R51: lane 0 of `BE32` of four bytes is the first of them, and lane 3 the last. -/
theorem byteLane_be32 (b0 b1 b2 b3 : Byte) :
    byteLane (be32 b0 b1 b2 b3) 0 = b0 ∧ byteLane (be32 b0 b1 b2 b3) 1 = b1 ∧
      byteLane (be32 b0 b1 b2 b3) 2 = b2 ∧ byteLane (be32 b0 b1 b2 b3) 3 = b3 := by
  have h0 := b0.isLt
  have h1 := b1.isLt
  have h2 := b2.isLt
  have h3 := b3.isLt
  simp only [← BitVec.toNat_inj, byteLane_toNat, be32_toNat]
  omega

/-- R14: `BE32bytes` gives back, in order, the four bytes that `BE32` put together. -/
@[simp] theorem be32Bytes_be32 (b0 b1 b2 b3 : Byte) : be32Bytes (be32 b0 b1 b2 b3) = [b0, b1, b2, b3] := by
  obtain ⟨h0, h1, h2, h3⟩ := byteLane_be32 b0 b1 b2 b3
  rw [be32Bytes, h0, h1, h2, h3]

/-- R52: the bytes of `BE64bytes`, read as digits to the base 256 from the first on, are the number. -/
theorem be64Bytes_foldl (l : BitLength) : (be64Bytes l).foldl (fun n b => n * 256 + b.toNat) 0 = l.toNat := by
  have hl := l.isLt
  simp only [be64Bytes, List.foldl_cons, List.foldl_nil, BitVec.extractLsb'_toNat, Nat.shiftRight_eq_div_pow]
  omega

/-- Settles O20: each helper undoes the other, and the 64-bit bytes weigh what the number weighs. -/
theorem bigEndianHelpers : Obligations.BigEndianHelpers :=
  ⟨be32_byteLane, be32Bytes_be32, fun l => ⟨be64Bytes_foldl l, be64Bytes_length l⟩⟩

end Sys2Proof.Machine
end

section
/-! `SCHED_EXPAND` (R112, R113): the default one depends on the two words that R112 names and is a mixing formula; an open one
carries its dependence in its type. -/

namespace Sys2Proof.Machine

/-- R120: a right rotation of a word by 1 to 31 bits is the left rotation by the other bits. -/
theorem rotr_eq_rotateLeft (x : Word) (n : Nat) (h0 : 0 < n) (h32 : n < 32) : rotr x n = x.rotateLeft (32 - n) := by
  have hmod : (32 - n) % 32 = 32 - n := Nat.mod_eq_of_lt (by omega)
  have hsub : 32 - (32 - n) = n := by omega
  rw [rotr, BitVec.rotateLeft_def, hmod, hsub, BitVec.or_comm]

/-- Reading word `i - k` of an all-zero schedule in which word `i - back` became `x`. -/
theorem getD_set_replicate_zero (i back k : Nat) (x : Word) (hb : 0 < back) (hbi : back ≤ i) (hk : k ≤ i) :
    ((List.replicate i (0 : Word)).set (i - back) x).getD (i - k) 0 = if k = back then x else 0 := by
  by_cases h : k = back
  · subst h
    simp [List.getD_eq_getElem?_getD, show i - k < i by omega]
  · have hne : i - back ≠ i - k := by omega
    rw [if_neg h, List.getD_eq_getElem?_getD, List.getElem?_set_ne hne, List.getElem?_replicate]
    split <;> rfl

/-- R113: on an all-zero schedule the default expansion gives 0. -/
theorem defaultSchedExpand_replicate_zero (i : Nat) : defaultSchedExpand i (List.replicate i 0) = 0 := by
  have hz (j : Nat) : (List.replicate i (0 : Word)).getD j 0 = 0 := by
    rw [List.getD_eq_getElem?_getD, List.getElem?_replicate]
    split <;> rfl
  simp only [defaultSchedExpand, hz]
  decide

/-- R112: the default expansion depends on `W[i-15]` and on `W[i-2]`: among zeros, a 1 in either place leaves its `sigma`. -/
theorem defaultSchedExpand_depends : SchedDepends defaultSchedExpand := by
  intro i h16 _ back hback
  refine ⟨List.replicate i 0, 1, List.length_replicate, ?_⟩
  rw [defaultSchedExpand_replicate_zero]
  have hget (k : Nat) (hk : k ≤ i) := getD_set_replicate_zero i back k 1 (by omega) (by omega) hk
  rw [defaultSchedExpand, hget 2 (by omega), hget 7 (by omega), hget 15 (by omega), hget 16 h16]
  obtain rfl | rfl := hback <;> decide

/-- R112: under every profile, the default one and every open one, `SCHED_EXPAND` depends on `W[i-15]` and on `W[i-2]`. -/
theorem schedExpand_depends : ∀ p : Profile, SchedDepends (schedExpand p)
  | .defaultProfile => defaultSchedExpand_depends
  | .openProfile k => (Config.schedExpand k).depends

/-- R113: `sigma0` of word `j` as a formula. -/
def sigma0Formula (j : Nat) : MixFormula :=
  .xor (.xor (.rotl (32 - 7) (.word j)) (.rotl (32 - 18) (.word j))) (.shr 3 (.word j))

/-- R113: `sigma1` of word `j` as a formula. -/
def sigma1Formula (j : Nat) : MixFormula :=
  .xor (.xor (.rotl (32 - 17) (.word j)) (.rotl (32 - 19) (.word j))) (.shr 10 (.word j))

/-- R113: the default expansion of round `i` as a formula. -/
def defaultFormula (i : Nat) : MixFormula :=
  .add (.add (.add (sigma1Formula (i - 2)) (.word (i - 7))) (sigma0Formula (i - 15))) (.word (i - 16))

theorem sigma0Formula_eval (w : List Word) (j : Nat) : (sigma0Formula j).eval w = sigma0 (w.getD j 0) := by
  simp only [sigma0Formula, MixFormula.eval, sigma0]
  rw [rotr_eq_rotateLeft _ 7 (by decide) (by decide), rotr_eq_rotateLeft _ 18 (by decide) (by decide)]

theorem sigma1Formula_eval (w : List Word) (j : Nat) : (sigma1Formula j).eval w = sigma1 (w.getD j 0) := by
  simp only [sigma1Formula, MixFormula.eval, sigma1]
  rw [rotr_eq_rotateLeft _ 17 (by decide) (by decide), rotr_eq_rotateLeft _ 19 (by decide) (by decide)]

/-- R113: the formula computes the default expansion. -/
theorem defaultFormula_eval (i : Nat) (w : List Word) : (defaultFormula i).eval w = defaultSchedExpand i w := by
  simp only [defaultFormula, MixFormula.eval, sigma0Formula_eval, sigma1Formula_eval, defaultSchedExpand]

/-- R112: the default formula mixes words: the XOR and the rotation are those of `sigma1`, the addition is that of its value
and `W[i-7]`. -/
theorem defaultFormula_mixes (i : Nat) (hi : 0 < i) : (defaultFormula i).mixes i = true := by
  have h2 : i - 2 < i := by omega
  have h7 : i - 7 < i := by omega
  simp [defaultFormula, sigma1Formula, MixFormula.mixes, MixFormula.hasXor, MixFormula.hasRotl, MixFormula.hasAdd,
    MixFormula.readsWord, h2, h7]

/-- Settles O59: the dependence under each profile, and R113's formula as one that mixes and computes the default expansion. -/
theorem everyExpansionMeetsItsRequirements : Obligations.EveryExpansionMeetsItsRequirements :=
  ⟨schedExpand_depends, fun i h16 _ =>
    ⟨defaultFormula_mixes i (by omega), fun w => (defaultFormula_eval i w).symm⟩⟩

end Sys2Proof.Machine
end

section
/-! `Update` on the whole stream (R160, R175): the empty string, a string that fills no block, and two strings in turn. -/

namespace Sys2Proof.Machine

/-- R160: a string that does not fill the buffer to a block leaves `H`. -/
theorem update_h_of_short (p : Profile) (st : Stream) (s : List Byte) (h : (st.buf ++ s).length < 64) :
    (update p st s).h = st.h := by
  rw [update_h, Nat.div_eq_of_lt h, foldBlocks]

/-- R162: the stream of the empty message is `Init`. -/
@[simp] theorem update_initStream_nil (p : Profile) : update p initStream [] = initStream := rfl

/-- R160: the full blocks of `b ++ c` are those of `b`, then those of what `b` leaves over and `c`. -/
theorem blocks_append (b c : List Byte) :
    (b ++ c).length / 64 = b.length / 64 + (b.drop (64 * (b.length / 64)) ++ c).length / 64 := by
  simp only [List.length_append, List.length_drop]
  omega

/-- R175: `Update` with two strings in turn compresses the blocks of the two together. -/
theorem update_update_h (p : Profile) (st : Stream) (s1 s2 : List Byte) :
    (update p (update p st s1) s2).h = (update p st (s1 ++ s2)).h := by
  simp only [update_h, update_buf, ← List.append_assoc]
  generalize st.buf ++ s1 = b
  have hle : 64 * (b.length / 64) ≤ b.length := by omega
  rw [blocks_append b s2, foldBlocks_add, foldBlocks_append _ _ _ _ _ hle, List.drop_append_of_le_length hle]

/-- R175: `Update` with two strings in turn keeps the rest that the two together leave. -/
theorem update_update_buf (p : Profile) (st : Stream) (s1 s2 : List Byte) :
    (update p (update p st s1) s2).buf = (update p st (s1 ++ s2)).buf := by
  simp only [update_buf, ← List.append_assoc]
  generalize st.buf ++ s1 = b
  have hle : 64 * (b.length / 64) ≤ b.length := by omega
  rw [blocks_append b s2, ← List.drop_append_of_le_length hle, List.drop_drop, Nat.mul_add]

/-- R175, under the caller's guarantee of R160: `Update` with two strings in turn is `Update` with both at once. -/
theorem update_update (p : Profile) (st : Stream) (s1 s2 : List Byte)
    (hg : st.len.toNat + 8 * (s1.length + s2.length) < 2 ^ 64) :
    update p (update p st s1) s2 = update p st (s1 ++ s2) := by
  have hlen : (update p (update p st s1) s2).len = (update p st (s1 ++ s2)).len := by
    simp only [update_len, List.length_append, addLength_addLength _ _ _ hg]
  rw [Stream.mk.injEq]
  exact ⟨update_update_h p st s1 s2, update_update_buf p st s1 s2, hlen⟩

end Sys2Proof.Machine
end

section
/-! What keeps a property of the block. A step is made of the shared operations, so a property that each of them keeps is kept by
every step of the machine and by every event of a row. -/

namespace Sys2Proof

/-- R73: an ABSORB that decodes has 1 to 4 bytes. -/
theorem absorb_count_of_decode {v : Word} {n : Nat} (h : decode v = .ok (.absorb n)) : 1 ≤ n ∧ n ≤ 4 := by
  have hnb := (nbField v).isLt
  simp only [decode, plainCommand] at h
  split_ifs at h <;> cases h
  omega

namespace Machine

/-- The registers of the block but DIN (R21), and the tables, are the same in both states. -/
structure SameBlock (s t : State) : Prop where
  h : t.h = s.h
  buf : t.buf = s.buf
  len : t.len = s.len
  dig : t.dig = s.dig
  dvalid : t.dvalid = s.dvalid
  err : t.err = s.err
  errcode : t.errcode = s.errcode
  infl : t.infl = s.infl
  profile : t.profile = s.profile

theorem SameBlock.stream {s t : State} (hb : SameBlock s t) : t.stream = s.stream := by
  simp only [State.stream, hb.h, hb.buf, hb.len]

theorem SameBlock.busy {s t : State} (hb : SameBlock s t) : t.busy = s.busy := by
  simp only [State.busy, hb.infl]

theorem SameBlock.jobLegal {s t : State} (hb : SameBlock s t) (hs : s.JobLegal) : t.JobLegal := by
  simpa only [State.JobLegal, hb.infl, hb.len] using hs

theorem sameBlock_popTurn (s : State) : SameBlock s (popTurn s) := by constructor <;> rfl
theorem sameBlock_popHost (s : State) : SameBlock s (popHost s) := by constructor <;> rfl
theorem sameBlock_setDraws (n : Nat) (s : State) : SameBlock s (setDraws n s) := by constructor <;> rfl
theorem sameBlock_setDin (v : Word) (s : State) : SameBlock s (setDin v s) := by constructor <;> rfl
theorem sameBlock_regRead (off : Nat) (s : State) : SameBlock s (regRead off s) := by constructor <;> rfl

/-- The command that acceptance puts in flight is a legal one if its count and the room in `LEN` are (R73, R205). -/
theorem acceptJob_jobLegal {j : Job} {s : State}
    (hj : ∀ n, j = .absorb n → 1 ≤ n ∧ n ≤ 4 ∧ s.len.toNat + 8 * n < 2 ^ 64) : (acceptJob j s).JobLegal := by
  intro n d hi
  cases hi
  exact hj n rfl

/-- With nothing in flight there is no ABSORB in flight. -/
theorem jobLegal_of_infl_none {s : State} (hi : s.infl = none) : s.JobLegal := by
  intro n d h
  rw [hi] at h
  cases h

/-- Each of the shared operations keeps the property `P`. -/
structure KeptByOperations (P : State → Prop) : Prop where
  same : ∀ {s t : State}, SameBlock s t → P s → P t
  error : ∀ {s : State} (e : ErrorKind), P s → P (raiseError e s)
  clear : ∀ {s : State}, P s → P (clearError s)
  accept : ∀ {j : Job} {s : State}, (acceptJob j s).JobLegal → P s → P (acceptJob j s)
  completion : ∀ {s : State}, P s → P (complete s)
  reset : ∀ s : State, P (resetEvent s)

namespace KeptByOperations

variable {P : State → Prop} {s t : State}

theorem accepted (hP : KeptByOperations P) {v : Word} (ha : Accepted v s t) (hs : P s) : P t := by
  cases ha with
  | nop _ ht => exact ht ▸ hs
  | busy _ _ ht => exact ht ▸ hP.error _ hs
  | illegal _ _ _ ht => exact ht ▸ hP.error _ hs
  | locked _ _ _ ht => exact ht ▸ hs
  | overflow _ _ _ _ _ ht => exact ht ▸ hP.error _ hs
  | init _ _ ht => exact ht ▸ hP.accept (acceptJob_jobLegal nofun) (hP.clear hs)
  | absorb _ _ n hd hl ht =>
    obtain ⟨h1, h4⟩ := absorb_count_of_decode hd
    subst ht
    refine hP.accept (acceptJob_jobLegal fun k hk => ?_) hs
    cases hk
    exact ⟨h1, h4, hl⟩
  | final _ _ _ ht => exact ht ▸ hP.accept (acceptJob_jobLegal nofun) hs

theorem accessed (hP : KeptByOperations P) {a : Access} (ha : Accessed a s t) (hs : P s) : P t := by
  cases ha with
  | read _ ht => exact ht ▸ hP.same (sameBlock_regRead _ s) hs
  | din v _ ht => exact ht ▸ hP.same (sameBlock_setDin v s) hs
  | ignored ht => exact ht ▸ hs
  | command _ _ hc => exact hP.accepted hc hs

/-- R20: every step, whoever makes it, keeps what the operations keep. -/
theorem step (hP : KeptByOperations P) (h : Machine.step s = .next t) (hs : P s) : P t := by
  have hs : P (popTurn s) := hP.same (sameBlock_popTurn s) hs
  have hh : P (popHost (popTurn s)) := hP.same (sameBlock_popHost _) hs
  cases stepped_of_step h with
  | core _ ht => exact ht ▸ hP.completion hs
  | reset _ ht => exact ht ▸ hP.reset _
  | idle _ _ ht => exact ht ▸ hs
  | access _ _ _ _ ha => exact hP.accessed ha hh
  | poll _ _ _ ht =>
    subst ht
    refine hP.same (sameBlock_regRead _ _) ?_
    split
    · exact hs
    · exact hh

/-- R39: every event of a row keeps, in the engine it reaches, what the operations keep. -/
theorem event (hP : KeptByOperations P) {k : Nat} {e : SysEvent} (h : eventAction k e s = .next t) (hs : P s) : P t := by
  cases e with
  | access addr bits kind => exact hP.accessed (accessed_of_performAccess h) hs
  | core _ => cases h; exact hP.completion hs
  | reset _ => cases h; exact hP.reset s
  | secondHost _ => cases h

end KeptByOperations

end Machine

end Sys2Proof
end

section
/-! The register invariants (R24, R25, R33 to R35, R73): each shared operation keeps them, so every step does. -/

namespace Sys2Proof.Machine

/-- R35, R201: the code of an error is 1, 2 or 3. -/
theorem errorCode_legal (e : ErrorKind) : errorCode e ≠ 0 ∧ (errorCode e).toNat ≤ 3 := by
  cases e <;> decide

namespace State.Inv

variable {s t : State}

theorem of_sameBlock (hb : SameBlock s t) (hs : s.Inv) : t.Inv where
  bufShort := hb.buf ▸ hs.bufShort
  lenBytes := hb.len ▸ hs.lenBytes
  lenBuf := by rw [hb.len, hb.buf]; exact hs.lenBuf
  busyNotValid := by rw [hb.busy, hb.dvalid]; exact hs.busyNotValid
  errCode := by rw [hb.err, hb.errcode]; exact hs.errCode
  codeLegal := hb.errcode ▸ hs.codeLegal
  jobLegal := hb.jobLegal hs.jobLegal

theorem raiseError (e : ErrorKind) (hs : s.Inv) : (raiseError e s).Inv := by
  obtain ⟨-, h⟩ | ⟨-, h⟩ := raiseError_cases e s
  · exact h.symm ▸ hs
  · rw [h]
    exact { hs with
      errCode := iff_of_false nofun (errorCode_legal e).1
      codeLegal := (errorCode_legal e).2 }

theorem clearError (hs : s.Inv) : (clearError s).Inv :=
  { hs with errCode := by simp, codeLegal := by simp }

theorem acceptJob {j : Job} (hj : (acceptJob j s).JobLegal) (hs : s.Inv) : (acceptJob j s).Inv :=
  { hs with busyNotValid := fun _ => rfl, jobLegal := hj }

/-- R25, R160: an ABSORB that has room adds its bytes to `BUF` modulo 64 and their bits to `LEN`. -/
theorem setStream_update (hs : s.Inv) (p : Profile) (bs : List Byte)
    (hroom : s.len.toNat + 8 * bs.length < 2 ^ 64) :
    ({ s.setStream (update p s.stream bs) with infl := none } : State).Inv where
  bufShort := by
    show (update p s.stream bs).buf.length ≤ 63
    rw [update_buf_length]
    omega
  lenBytes := by
    show (addLength s.len bs.length).toNat % 8 = 0
    have := hs.lenBytes
    rw [addLength_toNat _ _ hroom]
    omega
  lenBuf := by
    show (addLength s.len bs.length).toNat / 8 % 64 = (update p s.stream bs).buf.length
    have hbytes := hs.lenBytes
    have hbuf : s.len.toNat / 8 % 64 = s.stream.buf.length := hs.lenBuf
    rw [addLength_toNat _ _ hroom, update_buf_length, ← hbuf]
    omega
  busyNotValid := nofun
  errCode := hs.errCode
  codeLegal := hs.codeLegal
  jobLegal := jobLegal_of_infl_none rfl

theorem complete (hs : s.Inv) : (complete s).Inv := by
  obtain ⟨-, h⟩ | ⟨d, -, h⟩ | ⟨n, d, hi, h⟩ | ⟨d, -, h⟩ := complete_cases s <;> rw [h]
  · exact hs
  · exact { hs with
      bufShort := by simp
      lenBytes := by simp
      lenBuf := by simp
      busyNotValid := nofun
      jobLegal := jobLegal_of_infl_none rfl }
  · obtain ⟨-, h4, hroom⟩ := hs.jobLegal n d hi
    exact setStream_update hs _ _ (by rwa [operandBytes_length_of_le h4])
  · exact { hs with busyNotValid := nofun, jobLegal := jobLegal_of_infl_none rfl }

end State.Inv

/-- R220: the state that reset leaves meets the register invariants. -/
theorem resetWith_inv (p : Profile) (d : Words8) : (State.resetWith p d).Inv where
  bufShort := Nat.zero_le 63
  lenBytes := rfl
  lenBuf := by simp [State.resetWith]
  busyNotValid := nofun
  errCode := iff_of_true rfl rfl
  codeLegal := Nat.zero_le 3
  jobLegal := jobLegal_of_infl_none rfl

theorem sameBlock_resetEvent (s : State) :
    SameBlock (State.resetWith s.profile (Words8.ofFun (Config.freeDigest s.draws))) (resetEvent s) := by
  constructor <;> rfl

theorem inv_keptByOperations : KeptByOperations State.Inv where
  same := .of_sameBlock
  error := .raiseError
  clear := .clearError
  accept := .acceptJob
  completion := .complete
  reset s := .of_sameBlock (sameBlock_resetEvent s) (resetWith_inv _ _)

/-- Settles O48: each shared operation keeps the invariants. -/
theorem stepKeepsTheInvariants : Obligations.StepKeepsTheInvariants :=
  fun _ _ hs h => inv_keptByOperations.step h hs

/-- Settles O53: the event keeps the invariants of the engine it reaches, and the others stay. -/
theorem systemStepKeepsTheInvariants : Obligations.SystemStepKeepsTheInvariants := by
  refine ⟨fun y z hy h => ?_, fun p dig digs s hs => ?_⟩
  · obtain ⟨-, rfl⟩ | ⟨e, k, s, t, -, -, hk, ht, rfl⟩ := System.step_cases h
    · exact hy
    · have hs : (setDraws y.draws s).Inv := .of_sameBlock (sameBlock_setDraws _ s) (hy s (List.mem_of_getElem? hk))
      intro u hu
      rw [System.instances_setInstance, System.instances_popEvent] at hu
      obtain hu | rfl := List.mem_or_eq_of_mem_set hu
      · exact hy u hu
      · exact inv_keptByOperations.event ht hs
  · obtain rfl | hs := List.mem_cons.1 hs
    · exact resetWith_inv p dig
    · obtain ⟨d, -, rfl⟩ := List.mem_map.1 hs
      exact resetWith_inv p d

end Sys2Proof.Machine
end

section
/-! Genuine digests (R33, R162, R170, R175): each shared operation keeps the message of the stream, or extends it, or starts a
new one. -/

namespace Sys2Proof.Machine

namespace State.Genuine

variable {s t : State}

theorem of_sameBlock (hb : SameBlock s t) (hs : s.Genuine) : t.Genuine := by
  obtain ⟨m, hm, hj, hbusy, hdig⟩ := hs
  refine ⟨m, ?_, hb.jobLegal hj, ?_, ?_⟩
  · simpa only [State.StreamIs, hb.stream, hb.profile] using hm
  · simpa only [hb.busy, hb.dvalid] using hbusy
  · simpa only [hb.dvalid, hb.dig, hb.profile] using hdig

/-- The error flags are no part of what a genuine digest is. -/
theorem setError (b : Bool) (c : BitVec 4) (hs : s.Genuine) : ({ s with err := b, errcode := c } : State).Genuine := hs

theorem raiseError (e : ErrorKind) (hs : s.Genuine) : (raiseError e s).Genuine := by
  obtain ⟨-, h⟩ | ⟨-, h⟩ := raiseError_cases e s
  · exact h.symm ▸ hs
  · exact h.symm ▸ hs.setError true (errorCode e)

theorem acceptJob {j : Job} (hj : (acceptJob j s).JobLegal) (hs : s.Genuine) : (acceptJob j s).Genuine := by
  obtain ⟨m, hm, -, -, -⟩ := hs
  exact ⟨m, hm, hj, fun _ => rfl, nofun⟩

/-- A state with nothing in flight and no valid digest is genuine if its stream is that of some message. -/
theorem of_streamIs {m : List Byte} (hm : s.StreamIs m) (hi : s.infl = none) (hv : s.dvalid = false) : s.Genuine :=
  ⟨m, hm, jobLegal_of_infl_none hi, fun _ => hv, fun h => by rw [hv] at h; cases h⟩

end State.Genuine

/-- R162: `Init` is the stream of the empty message. -/
theorem streamIs_nil {s : State} (hs : s.stream = initStream) : s.StreamIs [] :=
  ⟨by decide, hs.trans (update_initStream_nil s.profile).symm⟩

/-- R25: `LEN` counts the bits of the message. -/
theorem State.StreamIs.len_toNat {s : State} {m : List Byte} (hm : s.StreamIs m) : s.len.toNat = 8 * m.length := by
  obtain ⟨hshort, hst⟩ := hm
  have hlen : s.len = addLength initStream.len m.length := congrArg Stream.len hst
  have h0 : initStream.len.toNat = 0 := rfl
  rw [hlen, addLength_toNat] <;> omega

/-- R154, R175: `AbsorbEffect` extends the message by its operand bytes, when there is room for them. -/
theorem State.StreamIs.absorbEffect {s : State} {m : List Byte} (hm : s.StreamIs m) {n : Nat} (hn : n ≤ 4) (d : Word)
    (hroom : s.len.toNat + 8 * n < 2 ^ 64) : (absorbEffect n d s).StreamIs (m ++ operandBytes n d) := by
  have hbits := hm.len_toNat
  obtain ⟨hshort, hst⟩ := hm
  have hop := operandBytes_length_of_le hn d
  have h0 : initStream.len.toNat = 0 := rfl
  refine ⟨?_, ?_⟩
  · rw [List.length_append, hop]
    omega
  · rw [absorbEffect_stream, hst, absorbEffect_profile, update_update]
    omega

theorem State.Genuine.complete {s : State} (hs : s.Genuine) : (complete s).Genuine := by
  obtain ⟨m, hm, hj, hbusy, hdig⟩ := hs
  have hv {f : InFlight} (hi : s.infl = some f) : s.dvalid = false := hbusy (by simp [State.busy, hi])
  obtain ⟨-, h⟩ | ⟨d, hi, h⟩ | ⟨n, d, hi, h⟩ | ⟨d, hi, h⟩ := complete_cases s <;> rw [h]
  · exact ⟨m, hm, hj, hbusy, hdig⟩
  · exact .of_streamIs (streamIs_nil rfl) rfl (hv hi)
  · obtain ⟨-, h4, hroom⟩ := hj n d hi
    exact .of_streamIs (hm.absorbEffect h4 d hroom) rfl (hv hi)
  · obtain ⟨hshort, hst⟩ := hm
    refine ⟨m, ⟨hshort, hst⟩, jobLegal_of_infl_none rfl, nofun, fun _ => ?_⟩
    show finalize s.profile s.stream = digestWords s.profile m
    rw [digestWords_eq _ _ hshort, hst]

theorem genuine_keptByOperations : KeptByOperations State.Genuine where
  same := .of_sameBlock
  error := .raiseError
  clear hs := hs.setError false 0
  accept := .acceptJob
  completion := .complete
  reset s := .of_streamIs (streamIs_nil (resetEvent_stream s)) rfl rfl

/-- Settles O49: each shared operation keeps digests genuine. -/
theorem stepKeepsDigestsGenuine : Obligations.StepKeepsDigestsGenuine :=
  fun _ _ hs h => genuine_keptByOperations.step h hs

end Sys2Proof.Machine
end

section
/-! What the host sees (R23, R31): STATUS bit by bit, and that no access writes the stream or shows it. -/

namespace Sys2Proof.Machine

/-- R31: bits 7 to 4 of STATUS are ERRCODE. -/
theorem statusWord_errcode (s : State) : (statusWord s).extractLsb' 4 4 = s.errcode := by
  apply BitVec.eq_of_getLsbD_eq
  intro k hk
  have h8 : 4 + k < 8 := by omega
  have h2 : ¬4 + k = 2 := by omega
  have h1 : ¬4 + k = 1 := by omega
  simp [statusWord_bit, hk, h8, h2, h1]

/-- Settles O34: the layout of STATUS bit by bit, and the two accesses at its offset. -/
theorem statusRegisterFields : Obligations.StatusRegisterFields := by
  refine fun s => ⟨?_, ?_, ?_, ?_, statusWord_errcode s, fun k hk => ?_, rfl, fun v => by simp [performAccess, regWrite]⟩
  · rw [statusWord_bit]; simp [State.busy]
  · rw [statusWord_bit]; simp
  · rw [statusWord_bit]; simp
  · rw [statusWord_bit]; simp
  · rw [statusWord_bit]; simp [Nat.not_lt.2 hk]

/-- Settles O38: the frame of an access, and the fields that the word of a read is made of. -/
theorem streamStateIsHidden : Obligations.StreamStateIsHidden := by
  refine ⟨fun a s t h => ?_, fun off s t hinfl hdvalid herr hcode hdin hdig hdraws => ?_⟩
  · obtain ⟨hh, hbuf, hlen, -⟩ := (accessed_of_performAccess h).frame
    exact ⟨hh, hbuf, hlen⟩
  · simp only [regValue, statusWord, State.busy, hinfl, hdvalid, herr, hcode, hdin, hdig, hdraws]

end Sys2Proof.Machine
end

section
/-! The rules of one step (R20, R22, R25, R27, R33): who writes `H`, `LEN` and DVALID, that the write of a command word runs its
command, and what no step writes. -/

namespace Sys2Proof.Machine

/-- R20, R23: a step completes, or is a reset, or is the host's and leaves the stream. -/
theorem stream_cases_of_step {s t : State} (h : step s = .next t) :
    (nextTurn s = .core ∧ t = complete (popTurn s)) ∨ (nextTurn s = .reset ∧ t = resetEvent (popTurn s)) ∨
    (nextTurn s = .host ∧ t.h = s.h ∧ t.len = s.len) := by
  cases stepped_of_step h with
  | core hn ht => exact .inl ⟨hn, ht⟩
  | reset hn ht => exact .inr (.inl ⟨hn, ht⟩)
  | idle hn _ ht => exact .inr (.inr ⟨hn, ht ▸ rfl, ht ▸ rfl⟩)
  | access hn _ _ _ ha =>
    obtain ⟨hh, -, hlen, -⟩ := ha.frame
    exact .inr (.inr ⟨hn, hh, hlen⟩)
  | poll hn _ _ ht => refine .inr (.inr ⟨hn, ?_, ?_⟩) <;> subst ht <;> cases s.busy <;> rfl

/-- R154: only an ABSORB that brings `BUF` to a full block writes `H`. -/
theorem absorbEffect_h_of_short {n : Nat} {s : State} (d : Word) (hshort : s.buf.length + n < 64) :
    (absorbEffect n d s).h = s.h := by
  refine update_h_of_short s.profile s.stream _ ?_
  have hop := operandBytes_length n d
  simp only [State.stream, List.length_append]
  omega

/-- Settles O44: by the agent that moves, and by the command that completes. -/
theorem onlyThreeThingsWriteH : Obligations.OnlyThreeThingsWriteH := by
  intro s t h hne
  obtain ⟨hn, rfl⟩ | ⟨hn, rfl⟩ | ⟨-, hh, -⟩ := stream_cases_of_step h
  · obtain ⟨-, hc⟩ | ⟨d, hi, hc⟩ | ⟨n, d, hi, hc⟩ | ⟨d, -, hc⟩ := complete_cases (popTurn s) <;> rw [hc] at hne ⊢
    · exact absurd rfl hne
    · exact .inr (.inl ⟨hn, ⟨d, hi⟩, rfl⟩)
    · refine .inr (.inr ⟨hn, n, d, hi, ?_⟩)
      by_contra hshort
      exact hne (absorbEffect_h_of_short (s := popTurn s) d (Nat.not_le.1 hshort))
    · exact absurd rfl hne
  · exact .inl ⟨hn, rfl⟩
  · exact absurd hh hne

/-- R160, R205: a legal ABSORB in flight adds its 8 bits a byte to `LEN`, as a number. -/
theorem absorbEffect_len_toNat {n : Nat} {s : State} (d : Word) (hn : n ≤ 4) (hroom : s.len.toNat + 8 * n < 2 ^ 64) :
    (absorbEffect n d s).len.toNat = s.len.toNat + 8 * n := by
  have hop := operandBytes_length_of_le hn d
  rw [absorbEffect_len, update_len, hop]
  exact addLength_toNat s.len n hroom

/-- Settles O45: by the agent that moves, and by the command that completes; the invariants give an ABSORB its room. -/
theorem lengthCounterNeverDecreases : Obligations.LengthCounterNeverDecreases := by
  intro s t hs h
  obtain ⟨hn, rfl⟩ | ⟨hn, rfl⟩ | ⟨-, -, hlen⟩ := stream_cases_of_step h
  · obtain ⟨-, hc⟩ | ⟨d, hi, hc⟩ | ⟨n, d, hi, hc⟩ | ⟨d, -, hc⟩ := complete_cases (popTurn s) <;> rw [hc]
    · exact .inl rfl
    · exact .inr (.inr ⟨rfl, .inr ⟨hn, d, hi⟩⟩)
    · obtain ⟨h1, h4, hroom⟩ := hs.jobLegal n d hi
      exact .inr (.inl ⟨hn, n, d, hi, h1, h4, absorbEffect_len_toNat (s := popTurn s) d h4 hroom⟩)
    · exact .inl rfl
  · exact .inr (.inr ⟨rfl, .inl hn⟩)
  · exact .inl hlen

/-- R150: a write to CMD leaves DVALID, or puts a command in flight and clears DVALID. -/
theorem Accepted.dvalid_cases {v : Word} {s t : State} (h : Accepted v s t) :
    t.dvalid = s.dvalid ∨ (s.infl = none ∧ t.infl ≠ none ∧ t.dvalid = false) := by
  cases h with
  | nop _ ht => exact .inl (ht ▸ rfl)
  | busy _ _ ht => exact .inl (ht ▸ raiseError_dvalid _ s)
  | illegal _ _ _ ht => exact .inl (ht ▸ raiseError_dvalid _ s)
  | locked _ _ _ ht => exact .inl (ht ▸ rfl)
  | overflow _ _ _ _ _ ht => exact .inl (ht ▸ raiseError_dvalid _ s)
  | init hb _ ht => exact .inr ⟨hb, by simp [ht], by simp [ht]⟩
  | absorb hb _ _ _ _ ht => exact .inr ⟨hb, by simp [ht], by simp [ht]⟩
  | final hb _ _ ht => exact .inr ⟨hb, by simp [ht], by simp [ht]⟩

/-- R33: an access of the host leaves DVALID, or puts a command in flight and clears DVALID. -/
theorem Accessed.dvalid_cases {a : Access} {s t : State} (h : Accessed a s t) :
    t.dvalid = s.dvalid ∨ (s.infl = none ∧ t.infl ≠ none ∧ t.dvalid = false) := by
  cases h with
  | read _ ht => exact .inl (ht ▸ rfl)
  | din _ _ ht => exact .inl (ht ▸ rfl)
  | ignored ht => exact .inl (ht ▸ rfl)
  | command _ _ hc => exact hc.dvalid_cases

/-- R151: a completion leaves DVALID, or completes FINAL and sets it. -/
theorem complete_dvalid_cases (s : State) :
    (complete s).dvalid = s.dvalid ∨ ((∃ d, s.infl = some ⟨.final, d⟩) ∧ (complete s).dvalid = true) := by
  obtain ⟨-, hc⟩ | ⟨d, -, hc⟩ | ⟨n, d, -, hc⟩ | ⟨d, hi, hc⟩ := complete_cases s <;> rw [hc]
  · exact .inl rfl
  · exact .inl rfl
  · exact .inl rfl
  · exact .inr ⟨⟨d, hi⟩, rfl⟩

/-- Settles O46: by the agent that moves. -/
theorem digestValidIsWrittenInThreeWays : Obligations.DigestValidIsWrittenInThreeWays := by
  intro s t h hne
  cases stepped_of_step h with
  | core hn ht =>
    subst ht
    exact .inr (.inl ⟨hn, (complete_dvalid_cases (popTurn s)).resolve_left hne⟩)
  | reset hn ht => exact .inr (.inr ⟨hn, ht ▸ rfl⟩)
  | idle _ _ ht => exact absurd (ht ▸ rfl) hne
  | access hn _ _ _ ha => exact .inl ⟨hn, ha.dvalid_cases.resolve_left hne⟩
  | poll _ _ _ ht => exact absurd (by subst ht; cases s.busy <;> rfl) hne

/-- R20, R30: a host turn makes the write to CMD that stands first in the host's program. -/
theorem step_of_commandWrite {s : State} {v : Word} {rest : List HostOp} {i : Instr} (hn : nextTurn s = .host)
    (hh : s.host = commandWrite v :: rest) (hd : decode v = .ok i) :
    step s = exec i { s with host := rest, turns := s.turns.tail } := by
  have hpop : popHost (popTurn s) = { s with host := rest, turns := s.turns.tail } := by
    simp only [popHost, popTurn, hh, List.tail_cons]
  have haccess : step s = acceptCommand v (popHost (popTurn s)) := by
    simp only [step, hn, takeTurn, hostStep, popTurn_host, hh, commandWrite]
    rfl
  rw [haccess, hpop, acceptCommand, hd]

/-- A word of the opcode table that decodes is, as a value written to CMD, a word that decodes. -/
theorem decode_of_decodeTableWord {w : Nat} {i : Instr} (h : decodeTableWord 32 w = some i) :
    decode (BitVec.ofNat 32 (w % 2 ^ 32)) = .ok i := by
  simp only [decodeTableWord, Nat.le_refl, if_true] at h
  split at h
  · cases h; assumption
  · cases h

/-- Settles O40: `withFetchWord` is such a host turn, and the state behind it is the one it was given. -/
theorem stepRunsTheDecodedCommand : Obligations.StepRunsTheDecodedCommand :=
  ⟨fun _ _ _ _ => step_of_commandWrite, fun _ _ _ hw => step_of_commandWrite rfl rfl (decode_of_decodeTableWord hw)⟩

/-- Settles O50: by the agent that moves. -/
theorem nothingWritesTheTables : Obligations.NothingWritesTheTables := by
  intro s t h
  cases stepped_of_step h with
  | core _ ht => subst ht; simp
  | reset _ ht => subst ht; simp
  | idle _ _ ht => subst ht; simp
  | access _ _ _ _ ha =>
    obtain ⟨-, -, -, -, hprofile, hhost, hturns, hdraws⟩ := ha.frame
    exact ⟨hprofile, hturns, .inr hhost, hdraws⟩
  | poll _ _ _ ht => subst ht; cases s.busy <;> simp [readDraws]

end Sys2Proof.Machine
end

section
/-! A row of engines (R39, R50): an event reaches one of them, and never takes a draw back. -/

namespace Sys2Proof.Machine

/-- R37: no event takes a draw back (log 4). -/
theorem draws_le_of_eventAction {k : Nat} {e : SysEvent} {s t : State} (h : eventAction k e s = .next t) :
    s.draws ≤ t.draws := by
  cases e with
  | access addr bits kind =>
    obtain ⟨-, -, -, -, -, -, -, hdraws⟩ := (accessed_of_performAccess h).frame
    exact hdraws
  | core _ => cases h; simp
  | reset _ => cases h; simp
  | secondHost _ => cases h

/-- Settles O51: a step that takes an event replaces the one engine it reaches. -/
theorem instancesAreIsolated : Obligations.InstancesAreIsolated := by
  refine ⟨fun _ _ _ h => System.nextEvent_cons h, fun y z e he h => ?_⟩
  obtain ⟨hnone, -⟩ | ⟨e', k, s, t, he', hk, hs, ht, rfl⟩ := System.step_cases h
  · rw [hnone] at he
    cases he
  · obtain rfl : e' = e := Option.some.inj (he' ▸ he)
    have hlt : k < y.instances.length := (List.getElem?_eq_some_iff.1 hs).1
    have hdraws : y.draws ≤ t.draws := draws_le_of_eventAction ht
    refine ⟨k, s, t, hk, hs, ht, by simp, by simpa using hdraws, by simp [hlt], by simp, by simp, fun j hj => ?_⟩
    simp [List.getElem?_set_ne hj.symm]

/-- R213: an address that lies in the window of engine `k` alone is routed to it. -/
theorem routeAccess_eq_some {n addr k : Nat} (hk : k < n) (hin : inWindow addr k = true)
    (hout : ∀ j, j < n → j ≠ k → inWindow addr j = false) : routeAccess n addr = some k := by
  have hfilter : (List.range n).filter (inWindow addr) = (List.range n).filter (· == k) := by
    refine List.filter_congr fun j hj => ?_
    by_cases hjk : j = k
    · simp [hjk, hin]
    · simp [hjk, hout j (List.mem_range.1 hj) hjk]
  have hone : (List.range n).filter (inWindow addr) = [k] := by
    rw [hfilter, List.filter_beq, List.count_eq_one_of_mem List.nodup_range (List.mem_range.2 hk), List.replicate_one]
  simp only [routeAccess, hone]

/-- R50: an address of engine `k`'s window lies in no window that does not overlap it. -/
theorem inWindow_of_disjoint {j k off : Nat} (hoff : off < 0x40)
    (hdis : windowBase j + 0x40 ≤ windowBase k ∨ windowBase k + 0x40 ≤ windowBase j) :
    inWindow (windowBase k + off) j = false := by
  simp only [inWindow, Bool.and_eq_false_iff, decide_eq_false_iff_not]
  omega

/-- R56, R58: a read that has a step is `RegRead` of its offset. -/
theorem eq_regRead_of_performAccess {off bits : Nat} {s t : State} (h : performAccess ⟨off, bits, .read⟩ s = .next t) :
    t = regRead off s := by
  simp only [performAccess] at h
  split_ifs at h
  cases h
  rfl

/-- R37: a DIGEST read while DVALID is 0 takes one draw. -/
theorem regRead_draws_of_digest {off : Nat} {s : State} (hlo : 0x10 ≤ off) (hhi : off < 0x30) (hv : s.dvalid = false) :
    (regRead off s).draws = s.draws + 1 := by
  simp [readDraws, hlo, hhi, hv]

/-- Settles O52: the access is routed to the one window that holds its address, where it is in contract. -/
theorem windowAccessReachesItsInstance : Obligations.WindowAccessReachesItsInstance := by
  intro y k off kind es s hs hoff hmod hdis hev
  have hlt : k < y.instances.length := (List.getElem?_eq_some_iff.1 hs).1
  have hroute : routeAccess y.instances.length (windowBase k + off) = some k :=
    routeAccess_eq_some hlt (by simp [inWindow, hoff]) fun j hj hjk => inWindow_of_disjoint hoff (hdis j hj hjk)
  obtain ⟨t, ht⟩ := performAccess_next ⟨off, 32, kind⟩ (setDraws y.draws s) (by simp [Access.inContract, hoff, hmod])
  have haction : eventAction k (.access (windowBase k + off) 32 kind) (setDraws y.draws s) = .next t := by
    rw [eventAction, Nat.add_sub_cancel_left, ht]
  refine ⟨t, y.popEvent.setInstance k t, ht, System.step_of_action (System.nextEvent_cons hev) hroute hs haction,
    by simp, by simp [hev], by simp, ?_⟩
  rintro rfl hlo hhi hv
  rw [System.draws_setInstance, eq_regRead_of_performAccess ht]
  exact regRead_draws_of_digest (s := setDraws y.draws s) hlo hhi hv

end Sys2Proof.Machine
end

section
/-! The operand lanes of DIN (R54, R111): the bytes that an ABSORB takes are the top lanes in order, and four of them are a word
of the block. -/

namespace Sys2Proof.Machine

/-- R54: the operand bytes of `n` bytes are lanes 0 to `n - 1`. -/
theorem operandBytes_eq_map_byteLane {n : Nat} (hn : n ≤ 4) (d : Word) :
    operandBytes n d = (List.range n).map (byteLane d) := by
  have hlanes : be32Bytes d = (List.range 4).map (byteLane d) := rfl
  rw [operandBytes, hlanes, ← List.map_take, List.take_range, Nat.min_eq_left hn]

/-- R54: a lane above the low `4 - n` ones stays when those are shifted out. -/
theorem byteLane_eq_extractLsb'_ushiftRight {n k : Nat} (hk : k < n) (hn : n ≤ 4) (d : Word) :
    byteLane d k = (d >>> (32 - 8 * n)).extractLsb' (8 * (n - 1 - k)) 8 := by
  have hpos : 24 - 8 * k = 32 - 8 * n + 8 * (n - 1 - k) := by omega
  apply BitVec.eq_of_getLsbD_eq
  intro b _
  simp only [byteLane, BitVec.getLsbD_extractLsb', BitVec.getLsbD_ushiftRight, hpos, Nat.add_assoc]

/-- R54: two DIN values with the same `n` top lanes give an ABSORB of `n` bytes the same operand. -/
theorem operandBytes_congr {n : Nat} {d d' : Word} (hn : n ≤ 4) (h : d >>> (32 - 8 * n) = d' >>> (32 - 8 * n)) :
    operandBytes n d = operandBytes n d' := by
  rw [operandBytes_eq_map_byteLane hn, operandBytes_eq_map_byteLane hn]
  refine List.map_congr_left fun k hk => ?_
  have hk : k < n := List.mem_range.1 hk
  rw [byteLane_eq_extractLsb'_ushiftRight hk hn, byteLane_eq_extractLsb'_ushiftRight hk hn, h]

/-- R111: word `i` of the schedule of a block. -/
theorem getElem?_loadWords {i : Nat} (hi : i < 16) (block : List Byte) :
    (loadWords block)[i]? = some (blockWord block i) := by
  simp [loadWords, hi]

/-- R111: `BE32bytes` of a word, at the place of word `i` of a block, is read back as that word. -/
theorem blockWord_append_be32Bytes {before : List Byte} {i : Nat} (hb : before.length = 4 * i) (v : Word)
    (after : List Byte) : blockWord (before ++ (be32Bytes v ++ after)) i = v := by
  have hget (k : Nat) : (before ++ (be32Bytes v ++ after)).getD (4 * i + k) 0 = (be32Bytes v ++ after).getD k 0 := by
    rw [← hb, List.getD_append_right _ _ _ _ (Nat.le_add_right _ _), Nat.add_sub_cancel_left]
  rw [blockWord, hget 1, hget 2, hget 3, ← Nat.add_zero (4 * i), hget 0]
  exact be32_byteLane v

/-- Settles O33: an operand is a list of lanes, and `BE32` puts the four lanes of a word together again. -/
theorem dinLanesAreBigEndian : Obligations.DinLanesAreBigEndian := by
  refine ⟨fun n d hn => ⟨operandBytes_length_of_le hn d, fun k hk => ?_⟩, fun _ _ _ => operandBytes_congr,
    fun before after i v hi hb => ?_⟩
  · rw [operandBytes_eq_map_byteLane hn, List.getElem?_map, List.getElem?_range hk]
    rfl
  · have hall : operandBytes 4 v = be32Bytes v := rfl
    rw [getElem?_loadWords hi, hall, List.append_assoc, blockWord_append_be32Bytes hb]

end Sys2Proof.Machine
end

section
/-! The register window (R56 to R58, R65): which accesses have a step, what a read returns and what a write does. -/

namespace Sys2Proof.Machine

/-- R58: an aligned 32-bit read in the window is `RegRead`. -/
theorem performAccess_read {off : Nat} (hoff : off < 0x40) (hmod : off % 4 = 0) (s : State) :
    performAccess ⟨off, 32, .read⟩ s = .next (regRead off s) := by
  simp [performAccess, hoff, hmod]

/-- R58: an aligned 32-bit write in the window is `RegWrite`. -/
theorem performAccess_write {off : Nat} (hoff : off < 0x40) (hmod : off % 4 = 0) (v : Word) (s : State) :
    performAccess ⟨off, 32, .write v⟩ s = regWrite off v s := by
  simp [performAccess, hoff, hmod]

/-- R58: an access of another width, out of alignment or outside the window is refused. -/
theorem performAccess_refused {a : Access} (h : a.bits ≠ 32 ∨ a.off % 4 ≠ 0 ∨ 0x40 ≤ a.off) (s : State) :
    ∃ r, performAccess a s = .refused r := by
  unfold performAccess
  split_ifs with hbits hoff hmod
  · exact ⟨_, rfl⟩
  · exact ⟨_, rfl⟩
  · exact ⟨_, rfl⟩
  · omega

/-- Settles O37: an access is in contract or is refused. -/
theorem onlyAlignedWordAccessesHaveAStep : Obligations.OnlyAlignedWordAccessesHaveAStep :=
  fun a s => ⟨fun h => performAccess_refused h s, fun hbits hmod hoff =>
    performAccess_next a s (by simp [Access.inContract, hbits, hmod, hoff])⟩

/-- Settles O36: by the three cases of `RegWrite`. -/
theorem registerWrites : Obligations.RegisterWrites := by
  intro off v s hoff hmod
  rw [performAccess_write hoff hmod]
  refine ⟨fun hcmd => ?_, fun hdin => ?_, fun hcmd hdin => ?_⟩
  · rw [regWrite, if_pos hcmd]
  · subst hdin
    rfl
  · rw [regWrite, if_neg hcmd, if_neg hdin]

/-- R56: a read of DIGESTj while DVALID is 1 returns `DIG[j]`. -/
theorem regValue_digest {j : Nat} {s : State} (hj : j < 8) (hv : s.dvalid = true) :
    regValue (0x10 + 4 * j) s = s.dig.get j := by
  have hwin : 0x10 ≤ 0x10 + 4 * j ∧ 0x10 + 4 * j < 0x30 := by omega
  have hidx : (0x10 + 4 * j - 0x10) / 4 = j := by omega
  rw [regValue, if_neg (by omega), if_neg (by omega), if_pos hwin, if_pos hv, hidx]

/-- R56: a read of a reserved offset returns 0. -/
theorem regValue_reserved {off : Nat} (s : State) (h : off = 0x0C ∨ 0x30 ≤ off) : regValue off s = 0x00000000 := by
  rw [regValue, if_neg (by omega), if_neg (by omega), if_neg (by omega)]

/-- R37: a read outside the digest registers takes no draw. -/
theorem regRead_draws_of_not_digest {off : Nat} (s : State) (h : off < 0x10 ∨ 0x30 ≤ off) :
    (regRead off s).draws = s.draws := by
  have hno : readDraws off s = false := by
    obtain h | h := h
    · simp [readDraws, Nat.not_le.2 h]
    · simp [readDraws, Nat.not_lt.2 h]
  rw [regRead_draws, hno]
  rfl

/-- R37: no read takes a draw while DVALID is 1. -/
theorem regRead_draws_of_dvalid (off : Nat) {s : State} (hv : s.dvalid = true) : (regRead off s).draws = s.draws := by
  simp [readDraws, hv]

/-- Settles O35: the read is `RegRead`, and the register of the offset says its word and its draw. -/
theorem registerReads : Obligations.RegisterReads := by
  intro off s hoff hmod
  refine ⟨regValue off s, (regRead off s).draws, performAccess_read hoff hmod s, ?_, ?_, ?_, ?_, ?_,
    regValue_reserved s, regRead_draws_of_not_digest s⟩
  · rintro rfl
    rfl
  · rintro rfl
    rfl
  · rintro rfl
    rfl
  · rintro j hj rfl hv
    exact ⟨regValue_digest hj hv, regRead_draws_of_dvalid _ hv⟩
  · rintro j hj rfl hv
    exact regRead_draws_of_digest (by omega) (by omega) hv

/-- The first entry of the interleaving says who moves. -/
theorem nextTurn_of_turns_eq_cons {s : State} {t : Turn} {ts : List Turn} (h : s.turns = t :: ts) : nextTurn s = t := by
  simp only [nextTurn, h]

/-- Settles O39: the turn of a second master is the refusal. -/
theorem secondHostHasNoStep : Obligations.SecondHostHasNoStep := by
  intro s ts h
  rw [step, nextTurn_of_turns_eq_cons h]
  rfl

end Sys2Proof.Machine
end

section
/-! The command word (R71 to R74): a word is its three fields, the decoder answers by them, and the encoder puts them together. -/

namespace Sys2Proof

/-- R71: a word with RSVD 0 is the one built of its NB and its OP. -/
theorem eq_commandWord {v : Word} {nb : BitVec 2} {op : BitVec 4} (hr : rsvdField v = 0) (hn : nbField v = nb)
    (ho : opField v = op) : v = commandWord nb op := by
  obtain ⟨er, eo, en⟩ := Laws.EncodedFields.fields_of_commandWord nb op
  rw [word_eq_fields v, word_eq_fields (commandWord nb op), hr, hn, ho, er, en, eo]

/-- R74, R75: everything the decoder can answer, with the fields that decide it. -/
inductive Decoded (v : Word) : Except Illegal Instr → Prop where
  | nop (hr : rsvdField v = 0) (ho : opField v = 0x0) (hn : nbField v = 0) : Decoded v (.ok .nop)
  | init (hr : rsvdField v = 0) (ho : opField v = 0x1) (hn : nbField v = 0) : Decoded v (.ok .init)
  | absorb (hr : rsvdField v = 0) (ho : opField v = 0x2) : Decoded v (.ok (.absorb ((nbField v).toNat + 1)))
  | final (hr : rsvdField v = 0) (ho : opField v = 0x3) (hn : nbField v = 0) : Decoded v (.ok .final)
  | rsvdNonzero (hr : rsvdField v ≠ 0) : Decoded v (.error .rsvdNonzero)
  | reservedOp (ho : 4 ≤ (opField v).toNat) : Decoded v (.error .reservedOp)
  | nbNonzero (hn : nbField v ≠ 0) (ho : opField v ≠ 0x2) : Decoded v (.error .nbNonzero)

/-- R72: an OP that is none of the four commands' is 4 or more. -/
theorem four_le_of_ne_commandOps :
    ∀ op : BitVec 4, op ≠ 0x0 → op ≠ 0x1 → op ≠ 0x2 → op ≠ 0x3 → 4 ≤ op.toNat := by
  decide

theorem decoded (v : Word) : Decoded v (decode v) := by
  unfold decode plainCommand
  split_ifs with hr h0 hn h1 hn h2 h3 hn
  · exact .rsvdNonzero hr
  · exact .nop (not_not.1 hr) h0 hn
  · exact .nbNonzero hn (by simp [h0])
  · exact .init (not_not.1 hr) h1 hn
  · exact .nbNonzero hn (by simp [h1])
  · exact .absorb (not_not.1 hr) h2
  · exact .final (not_not.1 hr) h3 hn
  · exact .nbNonzero hn (by simp [h3])
  · exact .reservedOp (four_le_of_ne_commandOps _ h0 h1 h2 h3)

theorem decoded_of_decode {v : Word} {d : Except Illegal Instr} (h : decode v = d) : Decoded v d := h ▸ decoded v

/-- R73, R74: with RSVD 0 and ABSORB's OP a word is the ABSORB of NB + 1 bytes. -/
theorem decode_absorb {v : Word} (hr : rsvdField v = 0) (ho : opField v = 0x2) :
    decode v = .ok (.absorb ((nbField v).toNat + 1)) := by
  simp [decode, hr, ho]

/-- R73: the count of a well-formed ABSORB is 1 to 4. -/
theorem wellFormed_absorb_iff {n : Nat} : WellFormed (.absorb n) ↔ 1 ≤ n ∧ n ≤ 4 := by
  simp [WellFormed, Instr.wf]

/-- R72: decoding gives back the command that was encoded. -/
theorem decode_encode {i : Instr} (hi : WellFormed i) : decode (encode i) = .ok i := by
  cases i with
  | nop => rfl
  | init => rfl
  | absorb n =>
    obtain ⟨h1, h4⟩ := wellFormed_absorb_iff.1 hi
    obtain ⟨hr, ho, hn⟩ := Laws.EncodedFields.absorb n
    have hcount : (nbField (encode (.absorb n))).toNat + 1 = n := by
      rw [hn, BitVec.toNat_ofNat]
      omega
    rw [decode_absorb hr ho, hcount]
  | final => rfl

/-- R73: what a word decodes to is well formed. -/
theorem wellFormed_of_decode {v : Word} {i : Instr} (h : decode v = .ok i) : WellFormed i := by
  cases i with
  | nop => rfl
  | init => rfl
  | absorb n => exact wellFormed_absorb_iff.2 (absorb_count_of_decode h)
  | final => rfl

/-- R72, R74: a word that decodes has the fields of its command's encoding, so it is that encoding. -/
theorem eq_encode_of_decode {v : Word} {i : Instr} (h : decode v = .ok i) : v = encode i := by
  cases decoded_of_decode h with
  | nop hr ho hn => exact eq_commandWord hr hn ho
  | init hr ho hn => exact eq_commandWord hr hn ho
  | absorb hr ho =>
    have hnb : nbField v = BitVec.ofNat 2 ((nbField v).toNat + 1 - 1) := by simp
    exact eq_commandWord hr hnb ho
  | final hr ho hn => exact eq_commandWord hr hn ho

/-- R72 to R74: the words that decode to a command are its one encoding. -/
theorem decode_eq_ok_iff {v : Word} {i : Instr} : decode v = .ok i ↔ WellFormed i ∧ v = encode i := by
  refine ⟨fun h => ⟨wellFormed_of_decode h, eq_encode_of_decode h⟩, ?_⟩
  rintro ⟨hi, rfl⟩
  exact decode_encode hi

/-- Settles O2: a word that decodes is the encoding of its command, and an encoding decodes. -/
theorem encodeAndDecodeAreInverse : Obligations.EncodeAndDecodeAreInverse :=
  ⟨fun _ _ hi => decode_eq_ok_iff.trans (and_iff_right hi), fun _ _ => wellFormed_of_decode⟩

/-- R72, R73: the well-formed commands, in the order of the opcode table. -/
def wellFormedInstrs : List Instr := [.nop, .init, .absorb 1, .absorb 2, .absorb 3, .absorb 4, .final]

theorem mem_wellFormedInstrs {i : Instr} : i ∈ wellFormedInstrs ↔ WellFormed i := by
  cases i with
  | nop => decide
  | init => decide
  | absorb n =>
    rw [wellFormed_absorb_iff]
    simp only [wellFormedInstrs, List.mem_cons, List.not_mem_nil, Instr.absorb.injEq, reduceCtorEq, false_or, or_false]
    omega
  | final => decide

/-- R74: the legal words are the encodings of the well-formed commands. -/
theorem exists_decode_eq_ok_iff {v : Word} : (∃ i, decode v = .ok i) ↔ v ∈ wellFormedInstrs.map encode := by
  simp only [decode_eq_ok_iff, List.mem_map, mem_wellFormedInstrs, eq_comm (a := v)]

/-- A word that decodes to no command is rejected. -/
theorem exists_decode_eq_error {v : Word} (h : ∀ i, decode v ≠ .ok i) : ∃ r, decode v = .error r := by
  cases hd : decode v with
  | ok i => exact absurd hd (h i)
  | error r => exact ⟨r, rfl⟩

/-- Settles O1: the words of the pseudocode's branches are the encodings of the commands they name. -/
theorem decodeFollowsThePseudocode : Obligations.DecodeFollowsThePseudocode := by
  refine fun v => ⟨?_, ?_, decode_absorb, ?_, fun h0 h1 h2 h3 => exists_decode_eq_error fun i hi => ?_,
    exists_decode_eq_ok_iff⟩
  · rintro rfl
    exact decode_encode (i := .nop) rfl
  · rintro rfl
    exact decode_encode (i := .init) rfl
  · rintro rfl
    exact decode_encode (i := .final) rfl
  · have hv : v = encode i := eq_encode_of_decode hi
    cases i with
    | nop => exact h0 hv
    | init => exact h1 hv
    | absorb n =>
      obtain ⟨hr, ho, -⟩ := Laws.EncodedFields.absorb n
      exact h2 (hv ▸ ⟨hr, ho⟩)
    | final => exact h3 hv

/-- R75: the three causes of a rejection. -/
theorem exists_decode_eq_error_iff {v : Word} :
    (∃ r, decode v = .error r) ↔
      4 ≤ (opField v).toNat ∨ rsvdField v ≠ 0 ∨ (nbField v ≠ 0 ∧ opField v ≠ 0x2) := by
  generalize hd : decode v = d
  cases decoded_of_decode hd with
  | nop hr ho hn => simp [hr, ho, hn]
  | init hr ho hn => simp [hr, ho, hn]
  | absorb hr ho => simp [hr, ho]
  | final hr ho hn => simp [hr, ho, hn]
  | rsvdNonzero hr => exact ⟨fun _ => .inr (.inl hr), fun _ => ⟨_, rfl⟩⟩
  | reservedOp ho => exact ⟨fun _ => .inl ho, fun _ => ⟨_, rfl⟩⟩
  | nbNonzero hn ho => exact ⟨fun _ => .inr (.inr ⟨hn, ho⟩), fun _ => ⟨_, rfl⟩⟩

/-- R70: a word that decodes does so as a word of the opcode table too. -/
theorem decodeTableWord_of_decode {v : Word} {i : Instr} (h : decode v = .ok i) : decodeTableWord 32 v.toNat = some i := by
  rw [decodeTableWord, if_pos (Nat.le_refl 32), Nat.mod_eq_of_lt v.isLt, BitVec.ofNat_toNat, BitVec.setWidth_eq, h]

/-- Settles O3: the first seven words are the encodings of their rows. -/
theorem tableWordsDecodeToTheirRows : Obligations.TableWordsDecodeToTheirRows := by
  have hrow {i : Instr} (hi : WellFormed i) : decodeTableWord 32 (encode i).toNat = some i :=
    decodeTableWord_of_decode (decode_encode hi)
  exact ⟨hrow (i := .nop) rfl, hrow (i := .init) rfl, hrow (i := .absorb 1) rfl, hrow (i := .absorb 2) rfl,
    hrow (i := .absorb 3) rfl, hrow (i := .absorb 4) rfl, hrow (i := .final) rfl, by decide, by decide⟩

namespace Machine

/-- R75, R150: an ILLEGAL word raises ILLEGAL_CMD when nothing is in flight. -/
theorem acceptCommand_illegal {v : Word} {s : State} {r : Illegal} (hd : decode v = .error r) (hi : s.infl = none) :
    acceptCommand v s = .next (raiseError .illegalCmd s) := by
  rw [acceptCommand, hd, (not_busy_iff s).2 hi]
  rfl

/-- Settles O4: the causes are the decoder's, 0 is NOP's one encoding, and the write raises the error. -/
theorem illegalWordsRaiseIllegalCmd : Obligations.IllegalWordsRaiseIllegalCmd :=
  fun _ => ⟨exists_decode_eq_error_iff, decode_eq_ok_iff.trans (and_iff_right rfl),
    fun _ _ hd hi => acceptCommand_illegal hd hi⟩

end Machine

end Sys2Proof
end

section
/-! The chunks of UPDATE and the words of FEED (R77): cutting a string loses no byte, and a chunk comes back out of its word. -/

namespace Sys2Proof.Machine

/-- R77: the chunks, one after another, are the string. -/
theorem flatten_fourByteChunks : ∀ s : List Byte, (fourByteChunks s).flatten = s
  | [] => rfl
  | [_] => rfl
  | [_, _] => rfl
  | [_, _, _] => rfl
  | b0 :: b1 :: b2 :: b3 :: rest => by
    rw [fourByteChunks, List.flatten_cons, flatten_fourByteChunks rest]
    rfl

/-- R77: a chunk has 1 to 4 bytes. -/
theorem length_of_mem_fourByteChunks : ∀ s : List Byte, ∀ c ∈ fourByteChunks s, 1 ≤ c.length ∧ c.length ≤ 4
  | [] => by simp [fourByteChunks]
  | [_] => by simp [fourByteChunks]
  | [_, _] => by simp [fourByteChunks]
  | [_, _, _] => by simp [fourByteChunks]
  | b0 :: b1 :: b2 :: b3 :: rest => by
    rw [fourByteChunks, List.forall_mem_cons]
    exact ⟨by simp, length_of_mem_fourByteChunks rest⟩

/-- R54, R77: the operand of FEED's ABSORB is what FEED packed. -/
theorem operandBytes_packBytes {c : List Byte} (hc : c.length ≤ 4) : operandBytes c.length (packBytes c) = c := by
  rw [operandBytes, packBytes, be32Bytes_be32]
  match c, hc with
  | [], _ => rfl
  | [_], _ => rfl
  | [_, _], _ => rfl
  | [_, _, _], _ => rfl
  | [_, _, _, _], _ => rfl

/-- Settles O54: the cut loses nothing and makes pieces that fit a word. -/
theorem updateFeedsItsBytes : Obligations.UpdateFeedsItsBytes :=
  ⟨fun s => ⟨flatten_fourByteChunks s, length_of_mem_fourByteChunks s⟩, fun _ _ => operandBytes_packBytes⟩

end Sys2Proof.Machine
end

section
/-! The lines of the assembler (R76): the word of ABSORB, and one host step for a line of each kind. -/

namespace Sys2Proof.Machine

/-- R72, R73: the word of an ABSORB, put together from its OP and its count. -/
theorem encode_absorb {n : Nat} (hn : n ≤ 4) :
    encode (.absorb n) = 0x00000002 ||| (BitVec.ofNat 32 (n - 1) <<< 4) := by
  have hnb : (BitVec.ofNat 2 (n - 1)).setWidth 32 = BitVec.ofNat 32 (n - 1) := by
    apply BitVec.eq_of_toNat_eq
    simp only [BitVec.toNat_setWidth, BitVec.toNat_ofNat]
    omega
  rw [encode, commandWord, hnb, BitVec.or_comm]
  rfl

/-- R76: the rest of the host's program is what follows its first line. -/
theorem popHost_of_host_eq_cons {s : State} {o : HostOp} {rest : List HostOp} (h : s.host = o :: rest) :
    popHost s = { s with host := rest } := by
  rw [popHost, h, List.tail_cons]

theorem hostStep_access {s : State} {a : Access} {rest : List HostOp} (h : s.host = .access a :: rest) :
    hostStep s = performAccess a { s with host := rest } := by
  rw [← popHost_of_host_eq_cons h, hostStep, h]

theorem hostStep_poll {s : State} {rest : List HostOp} (h : s.host = .poll :: rest) :
    hostStep s = .next (regRead 0x04 (if s.busy then s else popHost s)) := by
  rw [hostStep, h]

/-- R31: bit 0 of STATUS is BUSY. -/
theorem statusWord_busy (s : State) : (statusWord s).getLsbD 0 = s.busy := by
  rw [statusWord_bit]
  simp

/-- R56: a read of STATUS hands its word to the host and changes nothing else. -/
theorem regRead_status (s : State) : regRead 0x04 s = { s with reads := statusWord s :: s.reads } := rfl

/-- Settles O55: the accesses are those of the register offsets and the encodings, and POLL is a read of STATUS. -/
theorem assemblerLinesStandForAccesses : Obligations.AssemblerLinesStandForAccesses := by
  refine ⟨fun n _ hn => ?_, rfl, rfl, rfl, fun v => ⟨rfl, rfl, rfl, fun _ _ => rfl⟩, rfl, rfl, rfl, fun _ _ => rfl,
    fun _ _ _ => hostStep_access, fun s rest h => ?_⟩
  · rw [assembleLine, commandWrite, encode_absorb hn]
  · rw [hostStep_poll h, statusWord_busy, regRead_status]
    cases s.busy with
    | true => rfl
    | false => rw [popHost_of_host_eq_cons h]; rfl

end Sys2Proof.Machine
end

section
/-! `Pad` of a stream's tail (R101, R103, R105): one block up to 55 bytes, two from 56 to 63, and so whole blocks for every
message. -/

namespace Sys2Proof.Machine

/-- R101: a tail of at most 55 bytes leaves room for the 0x80 byte and the length in its own block. -/
theorem pad_of_length_le {tail : List Byte} (h : tail.length ≤ 55) (l : BitLength) :
    pad tail l = tail ++ [0x80] ++ List.replicate (55 - tail.length) 0x00 ++ be64Bytes l := by
  have hzeros : (119 - tail.length % 64) % 64 = 55 - tail.length := by omega
  rw [pad_eq, hzeros]

/-- R101: the zeros after a tail of 56 to 63 bytes fill its block, and 56 more come before the length in the next. -/
theorem pad_of_le_length {tail : List Byte} (h56 : 56 ≤ tail.length) (h63 : tail.length ≤ 63) (l : BitLength) :
    pad tail l =
      (tail ++ [0x80] ++ List.replicate (63 - tail.length) 0x00) ++ (List.replicate 56 0x00 ++ be64Bytes l) := by
  have hzeros : (119 - tail.length % 64) % 64 = (63 - tail.length) + 56 := by omega
  rw [pad_eq, hzeros, List.replicate_add]
  simp only [List.append_assoc]

/-- R101: a tail, which is shorter than a block, is padded to one block or to two. -/
theorem pad_length_of_lt {tail : List Byte} (h : tail.length < 64) (l : BitLength) :
    (pad tail l).length = 64 * (1 + if 56 ≤ tail.length then 1 else 0) := by
  rw [pad_length]
  split <;> omega

/-- Settles O17: the fill to 56 modulo 64 has 55 - r zeros, or 63 - r and 56 more. -/
theorem paddingLayout : Obligations.PaddingLayout := by
  refine fun tail l => ⟨fun h => ⟨pad_of_length_le h l, ?_⟩, fun h56 h63 => ⟨pad_of_le_length h56 h63 l, ?_, ?_⟩⟩
  · rw [pad_length_of_lt (by omega), if_neg (by omega)]
  · simp only [List.length_append, List.length_singleton, List.length_replicate]
    omega
  · rw [pad_length_of_lt (by omega), if_pos h56]

/-- Settles O19: after the full blocks comes a tail of `len mod 64` bytes, padded to one block or to two. -/
theorem paddedStreamIsWholeBlocks : Obligations.PaddedStreamIsWholeBlocks := by
  intro m l
  have hfull : (m.take (64 * (m.length / 64))).length = 64 * (m.length / 64) := by
    rw [List.length_take]
    omega
  have htail : (m.drop (64 * (m.length / 64))).length = m.length % 64 := by
    rw [List.length_drop]
    omega
  have hlt : (m.drop (64 * (m.length / 64))).length < 64 := by omega
  rw [List.length_append, hfull, pad_length_of_lt hlt, htail, ← Nat.mul_add, Nat.add_assoc]

/-- Settles O18: the layout of a tail of no bytes, whose length bytes are zero too. -/
theorem emptyMessagePadsToOneBlock : Obligations.EmptyMessagePadsToOneBlock := by
  have hpad : pad [] 0 = [0x80] ++ List.replicate 55 0x00 ++ List.replicate 8 0x00 :=
    pad_of_length_le (tail := []) (Nat.zero_le 55) 0
  refine ⟨hpad, ?_⟩
  rw [hpad]
  decide

end Sys2Proof.Machine
end

section
/-! The Scheduler (R110 to R115): the block's sixteen words come first under every profile, the default expansion is R113's
formula, and the schedules of two uniform blocks. -/

namespace Sys2Proof.Machine

/-- R111: expansion keeps the block's sixteen words, whatever the profile. -/
@[simp] theorem schedule_take_sixteen (p : Profile) (block : List Byte) : (schedule p block).take 16 = loadWords block := by
  have hlen : (loadWords block).length = 16 := loadWords_length block
  rw [schedule, expandWords_take p 48 _ 16 hlen.ge, List.take_of_length_le hlen.le]

/-- R111: below 16, a word of the schedule is a word of the block. -/
theorem getElem?_schedule_of_lt {i : Nat} (hi : i < 16) (p : Profile) (block : List Byte) :
    (schedule p block)[i]? = some (blockWord block i) := by
  rw [← List.getElem?_take_of_lt hi, schedule_take_sixteen, getElem?_loadWords hi]

/-- R112: from 16 on, a word of the schedule is the expansion of the words before it. -/
theorem getElem?_schedule_of_le {i : Nat} (h16 : 16 ≤ i) (h64 : i < 64) (p : Profile) (block : List Byte) :
    (schedule p block)[i]? = some (schedExpand p i ((schedule p block).take i)) := by
  have hlen : (loadWords block).length = 16 := loadWords_length block
  exact expandWords_get p 48 (loadWords block) i (by omega) (by omega)

/-- Settles O21: the length, the loaded words and the expanded ones. -/
theorem scheduleExpandsTheBlock : Obligations.ScheduleExpandsTheBlock := fun p block _ =>
  ⟨schedule_length p block, fun _ hi => getElem?_schedule_of_lt hi p block,
    fun _ h16 h64 => getElem?_schedule_of_le h16 h64 p block⟩

/-- Settles O22: the dependence and the rotation law are lemmas, and the formula is the definition with `sigma0` and `sigma1`
written out. -/
theorem defaultExpansionMeetsItsRequirements : Obligations.DefaultExpansionMeetsItsRequirements :=
  ⟨schedExpand_depends .defaultProfile, rotr_eq_rotateLeft, fun _ _ => rfl⟩

/-- The words of a block of 64 equal bytes are equal. -/
theorem blockWord_replicate {i : Nat} (hi : i < 16) (b : Byte) : blockWord (List.replicate 64 b) i = be32 b b b b := by
  have hget (k : Nat) (hk : k < 64) : (List.replicate 64 b).getD k 0 = b := List.getD_replicate _ hk
  rw [blockWord, hget _ (by omega), hget _ (by omega), hget _ (by omega), hget _ (by omega)]

theorem loadWords_replicate (b : Byte) : loadWords (List.replicate 64 b) = List.replicate 16 (be32 b b b b) :=
  List.eq_replicate_iff.2 ⟨loadWords_length _, fun w hw => by
    obtain ⟨i, hi, rfl⟩ := List.mem_map.1 hw
    exact blockWord_replicate (List.mem_range.1 hi) b⟩

/-- R113: under the default profile zero words are followed by zero words. -/
theorem expandWords_replicate_zero (n k : Nat) :
    expandWords .defaultProfile n (List.replicate k 0) = List.replicate (k + n) 0 := by
  induction n generalizing k with
  | zero => rfl
  | succ n ih =>
    have hzero : schedExpand .defaultProfile k (List.replicate k 0) = 0 := defaultSchedExpand_replicate_zero k
    rw [expandWords, List.length_replicate, hzero, ← List.replicate_succ', ih, Nat.add_right_comm, Nat.add_assoc]

/-- R113: words 16 and 17 of the default profile read loaded words only: four that are equal give one value. -/
theorem getElem?_schedule_of_uniform {block : List Byte} {x : Word} (hx : ∀ j, j < 16 → blockWord block j = x) {i : Nat}
    (h16 : 16 ≤ i) (h17 : i ≤ 17) :
    (schedule .defaultProfile block)[i]? = some (sigma1 x + x + sigma0 x + x) := by
  have hread (j : Nat) (hj : j < 16) : ((schedule .defaultProfile block).take i).getD j 0 = x := by
    rw [List.getD_eq_getElem?_getD, List.getElem?_take_of_lt (by omega), getElem?_schedule_of_lt hj, hx j hj,
      Option.getD_some]
  rw [getElem?_schedule_of_le h16 (by omega), schedExpand, defaultSchedExpand, hread _ (by omega), hread _ (by omega),
    hread _ (by omega), hread _ (by omega)]

/-- Settles O23: zero words expand to zero words, and words 16 and 17 of the block of bytes 0xFF come from words of all ones. -/
theorem scheduleCornerCases : Obligations.ScheduleCornerCases := by
  have hzeros : be32 0x00 0x00 0x00 0x00 = 0 := by decide
  have hones : be32 0xFF 0xFF 0xFF 0xFF = 0xFFFFFFFF := by decide
  have hvalue : sigma1 0xFFFFFFFF + 0xFFFFFFFF + sigma0 0xFFFFFFFF + 0xFFFFFFFF = 0x203FFFFC := by decide
  have hword {i : Nat} (h16 : 16 ≤ i) (h17 : i ≤ 17) :
      (schedule .defaultProfile (List.replicate 64 0xFF))[i]? = some 0x203FFFFC := by
    rw [getElem?_schedule_of_uniform (fun j hj => blockWord_replicate hj 0xFF) h16 h17, hones, hvalue]
  refine ⟨?_, hword (by decide) (by decide), hword (by decide) (by decide), fun p q block => ?_⟩
  · rw [schedule, loadWords_replicate, hzeros, expandWords_replicate_zero]
  · rw [schedule_take_sixteen, schedule_take_sixteen]

end Sys2Proof.Machine
end

section
/-! The Compressor's rotation (R120): where each bit of a rotated word comes from. -/

namespace Sys2Proof.Machine

/-- R120: with `n = 0` all bits of the left shift leave the word. -/
@[simp] theorem rotr_zero (x : Word) : rotr x 0 = x := by
  have hleft : x <<< (32 - 0) = 0 := BitVec.shiftLeft_eq_zero (Nat.le_refl 32)
  rw [rotr, hleft, BitVec.ushiftRight_zero]
  exact BitVec.or_zero

/-- R120: the right shift gives the bits below `32 - n`, and the left shift the bits that come round. -/
theorem getLsbD_rotr {n k : Nat} (h1 : 1 ≤ n) (h31 : n ≤ 31) (hk : k < 32) (x : Word) :
    (rotr x n).getLsbD k = x.getLsbD ((k + n) % 32) := by
  rw [rotr, BitVec.getLsbD_or, BitVec.getLsbD_ushiftRight, BitVec.getLsbD_shiftLeft]
  by_cases hround : k + n < 32
  · have hlow : k < 32 - n := by omega
    have hmod : (k + n) % 32 = n + k := by omega
    simp [hlow, hmod]
  · have hhigh : ¬k < 32 - n := by omega
    have hmod : (k + n) % 32 = k - (32 - n) := by omega
    have hgone : x.getLsbD (n + k) = false := BitVec.getLsbD_of_ge x (n + k) (by omega)
    simp [hhigh, hk, hmod, hgone]

/-- Settles O24: the formula is the definition. -/
theorem rotateRightMovesBits : Obligations.RotateRightMovesBits := fun x =>
  ⟨rotr_zero x, fun _ _ => rfl, fun _ h1 h31 _ hk => getLsbD_rotr h1 h31 hk x⟩

end Sys2Proof.Machine
end

section
/-! The Compressor's bitwise functions (R122, R124): selection and majority, bit by bit. -/

namespace Sys2Proof.Machine

/-- R122: the first operand selects between the other two. -/
theorem getLsbD_chooseBits {k : Nat} (hk : k < 32) (e f g : Word) :
    (chooseBits e f g).getLsbD k = if e.getLsbD k then f.getLsbD k else g.getLsbD k := by
  rw [chooseBits, BitVec.getLsbD_xor, BitVec.getLsbD_and, BitVec.getLsbD_and, BitVec.getLsbD_not]
  cases e.getLsbD k <;> simp [hk]

/-- R122: a word of all ones selects the second operand. -/
@[simp] theorem chooseBits_allOnes (f g : Word) : chooseBits (BitVec.allOnes 32) f g = f :=
  BitVec.eq_of_getLsbD_eq fun k hk => by
    have hone : (BitVec.allOnes 32).getLsbD k = true := by rw [BitVec.getLsbD_allOnes, decide_eq_true hk]
    rw [getLsbD_chooseBits hk, if_pos hone]

/-- R122: a word of zeros selects the third operand. -/
@[simp] theorem chooseBits_zero (f g : Word) : chooseBits 0 f g = g :=
  BitVec.eq_of_getLsbD_eq fun k hk => by
    have hzero : ¬(0 : Word).getLsbD k = true := by simp
    rw [getLsbD_chooseBits hk, if_neg hzero]

/-- R124: of three bits, two or more are ones. -/
theorem getLsbD_majority (a b c : Word) (k : Nat) :
    (majority a b c).getLsbD k = true ↔
      2 ≤ (a.getLsbD k).toNat + (b.getLsbD k).toNat + (c.getLsbD k).toNat := by
  have hbits : ∀ p q r : Bool, (p && q ^^ p && r ^^ q && r) = true ↔ 2 ≤ p.toNat + q.toNat + r.toNat := by decide
  simp only [majority, BitVec.getLsbD_xor, BitVec.getLsbD_and]
  exact hbits _ _ _

/-- R124: two equal operands are the majority, since the two products with the third cancel. -/
@[simp] theorem majority_self (x y : Word) : majority x x y = x := by
  rw [majority, BitVec.and_self, BitVec.xor_assoc, BitVec.xor_self, BitVec.xor_zero]

/-- Settles O25: the formulas are the definitions, and the bits and corner values are lemmas. -/
theorem chooseAndMajorityBitwise : Obligations.ChooseAndMajorityBitwise :=
  ⟨fun _ _ _ => rfl, fun _ _ _ => rfl, fun e f g _ hk => getLsbD_chooseBits hk e f g,
    fun a b c k _ => getLsbD_majority a b c k, fun f g => ⟨chooseBits_allOnes f g, chooseBits_zero f g⟩, majority_self⟩

end Sys2Proof.Machine
end

section
/-! The Compressor's rounds (R125, R126, R131): one round, and the rounds of a schedule as a fold over their numbers. -/

namespace Sys2Proof.Machine

/-- Settles O26: the source's sequential shift overwrites a variable only after its value has moved on, so it computes the
simultaneous one of `roundStep`. -/
theorem roundFollowsTheSourceShift : Obligations.RoundFollowsTheSourceShift := fun _ _ _ _ _ _ _ _ _ _ _ => rfl

/-- R126: the fold into the state is word by word. -/
@[simp] theorem get_addEach (x y : Words8) (j : Nat) : (x.addEach y).get j = x.get j + y.get j := by
  unfold Words8.get
  split <;> rfl

/-- R131: the rounds from number `k` on are the rounds `k + i` for each position `i` of the words, in order. -/
theorem rounds_eq_foldl (p : Profile) (k : Nat) (ws : List Word) (v : Words8) :
    rounds p k ws v = (List.range ws.length).foldl (fun u i => roundStep p (k + i) u (ws.getD i 0)) v := by
  induction ws generalizing k v with
  | nil => rfl
  | cons w ws ih =>
    rw [rounds, ih, List.length_cons, List.range_succ_eq_map, List.foldl_cons, List.foldl_map]
    simp only [List.getD_cons_zero, List.getD_cons_succ, Nat.add_zero, Nat.add_assoc, Nat.add_comm 1]

/-- Settles O27: the rounds as a fold, from round 0, and the fold into the state at word `j`. -/
theorem compressRunsSixtyFourRounds : Obligations.CompressRunsSixtyFourRounds := by
  intro p hin w hw j _
  rw [compress, get_addEach, rounds_eq_foldl, hw]
  simp only [Nat.zero_add]

end Sys2Proof.Machine
end

section
/-! The constants (R128, R130): the 32 bits after the point of the square roots of the first 8 primes, and of the cube roots
of the first 64. The `n`-th root of `p` with 32 fractional bits is the integer root of `p * 2 ^ (32 * n)`. -/

namespace Sys2Proof.Machine

/-- `w` holds the first 32 fractional bits of the `n`-th root of `p`: with an integer part `c` before them (below 7 for every
root of R128 and R130) they are the root, rounded down. -/
abbrev IsRootFraction (n p : Nat) (w : Word) : Prop :=
  ∃ c < 7, (c * 2 ^ 32 + w.toNat) ^ n ≤ p * 2 ^ (32 * n) ∧ p * 2 ^ (32 * n) < (c * 2 ^ 32 + w.toNat + 1) ^ n

/-- Such a word is the integer root of the scaled number, modulo 2^32. -/
theorem IsRootFraction.exists_root {n p : Nat} {w : Word} (h : IsRootFraction n p w) :
    ∃ r : Nat, r ^ n ≤ p * 2 ^ (32 * n) ∧ p * 2 ^ (32 * n) < (r + 1) ^ n ∧ w = BitVec.ofNat 32 (r % 2 ^ 32) := by
  obtain ⟨c, _, hle, hlt⟩ := h
  refine ⟨c * 2 ^ 32 + w.toNat, hle, hlt, BitVec.eq_of_toNat_eq ?_⟩
  have hw := w.isLt
  rw [BitVec.toNat_ofNat]
  omega

/-- R128: the first eight primes. -/
def ivPrimes : List Nat := [2, 3, 5, 7, 11, 13, 17, 19]

/-- R128: each word of `IV` is the fraction of its square root. -/
theorem iv_isRootFraction : ∀ j, (hj : j < ivPrimes.length) → IsRootFraction 2 ivPrimes[j] (iv.get j) := by
  decide

/-- Settles O28: a square root cut to 32 fractional bits is the integer root of the scaled prime. -/
theorem initialStateFromSquareRoots : Obligations.InitialStateFromSquareRoots := by
  intro j hj
  obtain ⟨r, hle, hlt, hword⟩ := (iv_isRootFraction j hj).exists_root
  rw [pow_two] at hle hlt
  exact ⟨r, ivPrimes[j]'hj, List.getElem?_eq_getElem hj, hle, hlt, hword⟩

/-- R130: the first 64 primes. -/
def kPrimes : List Nat :=
  [2, 3, 5, 7, 11, 13, 17, 19, 23, 29, 31, 37, 41, 43, 47, 53,
   59, 61, 67, 71, 73, 79, 83, 89, 97, 101, 103, 107, 109, 113, 127, 131,
   137, 139, 149, 151, 157, 163, 167, 173, 179, 181, 191, 193, 197, 199, 211, 223,
   227, 229, 233, 239, 241, 251, 257, 263, 269, 271, 277, 281, 283, 293, 307, 311]

/-- Below 19 * 19, a number from 2 on is prime if it has no divisors below 19 but 1 and itself. -/
theorem prime_iff_of_lt {n : Nat} (hn : n < 19 * 19) : n.Prime ↔ 2 ≤ n ∧ ∀ m < 19, m ∣ n → m = 1 ∨ m = n := by
  constructor
  · exact fun hp => ⟨hp.two_le, fun m _ => hp.eq_one_or_self_of_dvd m⟩
  · rintro ⟨h2, hdvd⟩
    refine Nat.prime_def_le_sqrt.2 ⟨h2, fun m hm2 hm hmn => ?_⟩
    have hm19 : m < 19 := lt_of_le_of_lt hm (Nat.sqrt_lt.2 hn)
    have hself : m < n := lt_of_le_of_lt hm (Nat.sqrt_lt_self h2)
    have := hdvd m hm19 hmn
    omega

/-- R130: the primes below 312, found by trial division, are the 64 numbers of the list. -/
theorem filter_prime_range : ((List.range 312).filter fun n => decide n.Prime) = kPrimes := by
  have htrial : ∀ n ∈ List.range 312, decide n.Prime = decide (2 ≤ n ∧ ∀ m : Nat, m < 19 → m ∣ n → m = 1 ∨ m = n) := by
    intro n hn
    have hlt : n < 312 := List.mem_range.1 hn
    exact decide_eq_decide.2 (prime_iff_of_lt (by omega))
  rw [List.filter_congr htrial]
  decide

/-- R130: each word of the default table is the fraction of its cube root. -/
theorem defaultKTable_isRootFraction :
    ∀ i, (hi : i < kPrimes.length) → IsRootFraction 3 kPrimes[i] (kTable .defaultProfile i) := by
  decide

/-- Settles O29: a cube root cut to 32 fractional bits is the integer root of the scaled prime. -/
theorem defaultRoundConstantsFromCubeRoots : Obligations.DefaultRoundConstantsFromCubeRoots := by
  unfold Obligations.DefaultRoundConstantsFromCubeRoots
  rw [filter_prime_range]
  refine ⟨rfl, rfl, fun i hi => ?_⟩
  obtain ⟨r, hle, hlt, hword⟩ := (defaultKTable_isRootFraction i hi).exists_root
  exact ⟨r, kPrimes[i]'hi, List.getElem?_eq_getElem hi, hle, hlt, hword⟩

end Sys2Proof.Machine
end

section
/-! Command acceptance (R150, R152 to R155): what each command answers, check by check, and what acceptance leaves unchanged. -/

namespace Sys2Proof.Machine

theorem exec_nop (s : State) : exec .nop s = .next s := rfl

/-- R150, check 2: while a command is in flight every other command but NOP is an error. -/
theorem exec_busy {i : Instr} {s : State} (hnop : i ≠ .nop) (hi : s.infl ≠ none) :
    exec i s = .next (raiseError .cmdWhileBusy s) := by
  have hb : s.busy = true := (busy_iff s).2 hi
  cases i with
  | nop => exact absurd rfl hnop
  | init => simp [exec, execInit, hb]
  | absorb n => simp [exec, execAbsorb, hb]
  | final => simp [exec, execFinal, hb]

section
variable {s : State} (hi : s.infl = none)
include hi

/-- R150, check 4: a locked engine drops every command but INIT. -/
theorem exec_locked {i : Instr} (hinit : i ≠ .init) (he : s.err = true) : exec i s = .next s := by
  have hb : s.busy = false := (not_busy_iff s).2 hi
  cases i with
  | nop => rfl
  | init => exact absurd rfl hinit
  | absorb n => simp [exec, execAbsorb, hb, he]
  | final => simp [exec, execFinal, hb, he]

/-- R153: INIT is accepted, locked or not, and clears the error. -/
theorem exec_init : exec .init s = .next (acceptJob .init (clearError s)) := by
  simp [exec, execInit, (not_busy_iff s).2 hi]

/-- R150, check 5: an ABSORB whose bytes `LEN` cannot count is an error. -/
theorem exec_absorb_overflow {n : Nat} (he : s.err = false) (hl : 2 ^ 64 ≤ s.len.toNat + 8 * n) :
    exec (.absorb n) s = .next (raiseError .lenOverflow s) := by
  simp only [exec, execAbsorb, (not_busy_iff s).2 hi, he, (lenWouldOverflow_iff n s).2 hl, if_true, Bool.false_eq_true,
    if_false]

/-- R154: an ABSORB with room in `LEN` is accepted. -/
theorem exec_absorb {n : Nat} (he : s.err = false) (hl : s.len.toNat + 8 * n < 2 ^ 64) :
    exec (.absorb n) s = .next (acceptJob (.absorb n) s) := by
  have hroom : ¬lenWouldOverflow n s = true := fun h => by
    have := (lenWouldOverflow_iff n s).1 h
    omega
  simp only [exec, execAbsorb, (not_busy_iff s).2 hi, he, hroom, Bool.false_eq_true, if_false]

/-- R155: FINAL is accepted. -/
theorem exec_final (he : s.err = false) : exec .final s = .next (acceptJob .final s) := by
  simp [exec, execFinal, (not_busy_iff s).2 hi, he]

end

/-- R150: a word that decodes runs its command. -/
theorem acceptCommand_of_decode {v : Word} {i : Instr} (hd : decode v = .ok i) (s : State) :
    acceptCommand v s = exec i s := by
  rw [acceptCommand, hd]

/-- R150, check 2: while a command is in flight every word but NOP's is an error, ILLEGAL ones too. -/
theorem acceptCommand_busy {v : Word} {s : State} (hnop : decode v ≠ .ok .nop) (hi : s.infl ≠ none) :
    acceptCommand v s = .next (raiseError .cmdWhileBusy s) := by
  cases hd : decode v with
  | ok i => rw [acceptCommand_of_decode hd, exec_busy (by rintro rfl; exact hnop hd) hi]
  | error r => rw [acceptCommand, hd, (busy_iff s).2 hi]; rfl

/-- Settles O5: one lemma for each check. -/
theorem commandAcceptanceFollowsItsChecks : Obligations.CommandAcceptanceFollowsItsChecks := by
  refine fun v s => ⟨acceptCommand_of_decode (s := s), acceptCommand_busy, fun r hd hi => acceptCommand_illegal hd hi,
    fun i hd _ hinit hi he => ?_, fun n hd hi he hl => ?_, fun hd hi => ?_, fun n hd hi he hl => ?_, fun hd hi he => ?_⟩
  · exact (acceptCommand_of_decode hd s).trans (exec_locked hi hinit he)
  · refine (acceptCommand_of_decode hd s).trans ((exec_absorb_overflow hi he hl).trans ?_)
    rw [raiseError, he]
    rfl
  · exact (acceptCommand_of_decode hd s).trans (exec_init hi)
  · exact (acceptCommand_of_decode hd s).trans (exec_absorb hi he hl)
  · exact (acceptCommand_of_decode hd s).trans (exec_final hi he)

/-- R150: a command answers a next state: the same one, one with the error raised, or one with a command accepted. -/
theorem exec_cases (i : Instr) (s : State) :
    exec i s = .next s ∨ (∃ e, exec i s = .next (raiseError e s)) ∨ (∃ j, exec i s = .next (acceptJob j s)) ∨
      exec i s = .next (acceptJob .init (clearError s)) := by
  by_cases hnop : i = .nop
  · exact .inl (hnop ▸ exec_nop s)
  by_cases hi : s.infl = none
  · by_cases hinit : i = .init
    · exact .inr (.inr (.inr (hinit ▸ exec_init hi)))
    by_cases he : s.err = true
    · exact .inl (exec_locked hi hinit he)
    have he : s.err = false := Bool.eq_false_iff.2 he
    cases i with
    | nop => exact absurd rfl hnop
    | init => exact absurd rfl hinit
    | absorb n =>
      obtain hl | hl := Nat.lt_or_ge (s.len.toNat + 8 * n) (2 ^ 64)
      · exact .inr (.inr (.inl ⟨_, exec_absorb hi he hl⟩))
      · exact .inr (.inl ⟨_, exec_absorb_overflow hi he hl⟩)
    | final => exact .inr (.inr (.inl ⟨_, exec_final hi he⟩))
  · exact .inr (.inl ⟨_, exec_busy hnop hi⟩)

/-- Settles O15: by what a command can answer. -/
theorem execFrame : Obligations.ExecFrame := by
  intro i s
  obtain h | ⟨e, h⟩ | ⟨j, h⟩ | h := exec_cases i s <;> exact ⟨_, h, by simp⟩

/-- Settles O9: NOP's word is 0 alone, since another word with OP 0 has a nonzero NB or RSVD. -/
theorem nopChangesNothing : Obligations.NopChangesNothing := by
  refine ⟨fun s => ⟨exec_nop s, acceptCommand_of_decode (v := 0x00000000) (i := .nop) rfl s⟩, fun v hop hne => ?_⟩
  rw [exists_decode_eq_error_iff]
  by_contra hcauses
  push Not at hcauses
  obtain ⟨-, hr, hn⟩ := hcauses
  have hnb : nbField v = 0 := by
    by_contra hnb
    have := hn hnb
    simp [opField, hop] at this
  exact hne (eq_commandWord hr hnb hop)

end Sys2Proof.Machine
end

section
/-! Completion (R151, R153 to R155): the whole state after each command, and what completion leaves unchanged. -/

namespace Sys2Proof.Machine

/-- R153: INIT, once accepted, completes to `Init`. -/
theorem complete_acceptJob_init (s : State) :
    complete (acceptJob .init s) = { s with dvalid := false, infl := none, h := iv, buf := [], len := 0 } := rfl

/-- R154: ABSORB, once accepted, completes to `Update` with the operand bytes of DIN. -/
theorem complete_acceptJob_absorb {n : Nat} {s : State} {st : Stream}
    (hst : update s.profile s.stream (operandBytes n s.din) = st) :
    complete (acceptJob (.absorb n) s) =
      { s with dvalid := false, infl := none, h := st.h, buf := st.buf, len := st.len } := by
  subst hst
  rfl

/-- R155: FINAL, once accepted, completes to a valid digest. -/
theorem complete_acceptJob_final (s : State) :
    complete (acceptJob .final s) = { s with dvalid := true, infl := none, dig := finalize s.profile s.stream } := rfl

/-- R32: with nothing in flight there is nothing to complete. -/
theorem complete_of_infl_none {s : State} (hi : s.infl = none) : complete s = s := by
  rw [complete, hi]

theorem complete_of_not_busy {s : State} (hb : s.busy = false) : complete s = s :=
  complete_of_infl_none ((not_busy_iff s).1 hb)

/-- Settles O16: by the command in flight. -/
theorem completionFrame : Obligations.CompletionFrame := by
  refine fun s => ⟨complete_infl s, complete_din s, complete_err s, complete_errcode s, complete_profile s, complete_host s,
    complete_turns s, complete_reads s, complete_draws s, fun hfinal => ?_, fun d hi => ?_, complete_of_infl_none⟩
  · obtain ⟨-, h⟩ | ⟨_, -, h⟩ | ⟨_, _, -, h⟩ | ⟨d, hi, -⟩ := complete_cases s
    · rw [h]; exact ⟨rfl, rfl⟩
    · rw [h]; exact ⟨rfl, rfl⟩
    · rw [h]; exact ⟨rfl, rfl⟩
    · exact absurd hi (hfinal d)
  · have h : complete s = { finalEffect s with infl := none } := by rw [complete, hi]; rfl
    rw [h]
    exact ⟨rfl, rfl, rfl, rfl, rfl⟩

/-- Settles O41: the core's turn is `Complete()`, and so is the next step of a used-up interleaving with a command in flight. -/
theorem coreTurnCompletes : Obligations.CoreTurnCompletes := by
  refine fun s => ⟨fun ts h => ?_, fun h hi => ?_⟩
  · rw [step, nextTurn_of_turns_eq_cons h, popTurn, h]
    rfl
  · have hcore : nextTurn s = .core := by simp only [nextTurn, h, (busy_iff s).2 hi, if_true]
    have hpop : popTurn s = s := by rw [popTurn, h, List.tail_nil, ← h]
    rw [step, hcore, hpop]
    rfl

end Sys2Proof.Machine
end

section
/-! `Update` and `Final` block by block (R160, R161, R175): a string that stays below a block, one that fills a block, a list of
chunks, and the one or two padded blocks of `Final`. -/

namespace Sys2Proof.Machine

/-- R160: the empty string changes no stream with less than a block buffered. -/
theorem update_nil {st : Stream} (hbuf : st.buf.length < 64) (p : Profile) : update p st [] = st := by
  rw [update, List.append_nil, drainBlocks_short p _ _ _ hbuf, List.length_nil, addLength_zero]

/-- R160: a string that does not fill the buffer to a block is appended to it. -/
theorem update_of_short {st : Stream} {s : List Byte} (hshort : (st.buf ++ s).length < 64)
    (hg : st.len.toNat + 8 * s.length < 2 ^ 64) (p : Profile) :
    update p st s = ⟨st.h, st.buf ++ s, st.len + BitVec.ofNat 64 (8 * s.length)⟩ := by
  rw [update, drainBlocks_short p _ _ _ hshort, addLength_eq _ _ hg]

/-- R160: a string that fills the buffer to one block and not to two has that block compressed. -/
theorem update_of_one_block {st : Stream} {s : List Byte} (h64 : 64 ≤ (st.buf ++ s).length)
    (h128 : (st.buf ++ s).length < 128) (hg : st.len.toNat + 8 * s.length < 2 ^ 64) (p : Profile) :
    update p st s = ⟨processBlock p st.h ((st.buf ++ s).take 64), (st.buf ++ s).drop 64,
      st.len + BitVec.ofNat 64 (8 * s.length)⟩ := by
  have hone : (st.buf ++ s).length / 64 = 1 := by omega
  rw [update, drainBlocks_eq p _ _ _ (Nat.div_le_self _ _), hone, addLength_eq _ _ hg]
  rfl

/-- Settles O30: the loop in closed form. -/
theorem updateConsumesFullBlocks : Obligations.UpdateConsumesFullBlocks :=
  fun p st s => ⟨update_h p st s, update_buf p st s, addLength_toNat st.len s.length,
    fun hbuf => update_nil (Nat.lt_succ_of_le hbuf) p⟩

/-- R175: chunk after chunk on top of a message, as long as all of it can be counted. -/
theorem foldl_update (p : Profile) (m : List Byte) (chunks : List (List Byte))
    (hm : 8 * (m ++ chunks.flatten).length < 2 ^ 64) :
    chunks.foldl (update p) (update p initStream m) = update p initStream (m ++ chunks.flatten) := by
  induction chunks generalizing m with
  | nil => simp
  | cons c cs ih =>
    have h0 : initStream.len.toNat = 0 := rfl
    rw [List.flatten_cons, ← List.append_assoc] at hm ⊢
    rw [List.foldl_cons, update_update, ih _ hm]
    simp only [List.length_append] at hm
    omega

/-- Settles O31: two strings in turn, and so a list of them. -/
theorem chunkingDoesNotMatter : Obligations.ChunkingDoesNotMatter :=
  ⟨fun p st s1 s2 => ⟨update_update_h p st s1 s2, update_update_buf p st s1 s2, update_update p st s1 s2⟩,
    fun p chunks => foldl_update p [] chunks⟩

/-- R161: with at most 55 bytes buffered `Final` compresses one block. -/
theorem finalize_of_length_le {st : Stream} (h : st.buf.length ≤ 55) (p : Profile) :
    finalize p st = processBlock p st.h (pad st.buf st.len) := by
  have hlen : (pad st.buf st.len).length = 64 := by
    rw [pad_length_of_lt (by omega), if_neg (by omega)]
  rw [finalize, hlen, foldBlocks, List.take_of_length_le hlen.le, foldBlocks]

/-- R161: with 56 to 63 bytes buffered `Final` compresses two blocks, in order. -/
theorem finalize_of_le_length {st : Stream} (h56 : 56 ≤ st.buf.length) (h63 : st.buf.length ≤ 63) (p : Profile) :
    finalize p st =
      processBlock p (processBlock p st.h ((pad st.buf st.len).take 64)) ((pad st.buf st.len).drop 64) := by
  have hlen : (pad st.buf st.len).length = 128 := by
    rw [pad_length_of_lt (by omega), if_pos h56]
  have hrest : ((pad st.buf st.len).drop 64).length ≤ 64 := by
    rw [List.length_drop, hlen]
  rw [finalize, hlen, foldBlocks, foldBlocks, List.take_of_length_le hrest, foldBlocks]

end Sys2Proof.Machine
end

section
/-! The commands with nothing in flight (R153 to R155, R163, R164): acceptance and completion, one after the other. -/

namespace Sys2Proof.Machine

/-- Settles O10: the accepted state completes to `Init`. -/
theorem initStartsANewStream : Obligations.InitStartsANewStream :=
  fun s hi => ⟨_, exec_init hi, rfl, complete_acceptJob_init (clearError s)⟩

/-- Settles O11: `Update` of at most four bytes fills one block or none. -/
theorem absorbAppendsTheOperandBytes : Obligations.AbsorbAppendsTheOperandBytes := by
  intro n s _ h4 hbuf hi he hg
  have hop := operandBytes_length_of_le h4 s.din
  have htotal : (s.buf ++ operandBytes n s.din).length = s.buf.length + n := by rw [List.length_append, hop]
  have hroom : s.stream.len.toNat + 8 * (operandBytes n s.din).length < 2 ^ 64 := by rwa [hop]
  refine ⟨_, exec_absorb hi he hg, rfl, fun hshort => ?_, fun hfull => ?_⟩
  · have hst := update_of_short (st := s.stream) (by rwa [← htotal] at hshort) hroom s.profile
    rw [hop] at hst
    exact complete_acceptJob_absorb hst
  · have h128 : s.buf.length + n < 128 := by omega
    rw [← htotal] at hfull h128
    have hst := update_of_one_block (st := s.stream) hfull h128 hroom s.profile
    rw [hop] at hst
    have hcomplete := complete_acceptJob_absorb hst
    refine ⟨hcomplete, ?_⟩
    rw [hcomplete, ← htotal]
    exact List.length_drop

/-- Settles O12: `Final` compresses one padded block or two. -/
theorem finalWritesTheDigest : Obligations.FinalWritesTheDigest :=
  fun s hbuf hi he => ⟨_, exec_final hi he, rfl, complete_acceptJob_final s,
    fun h => finalize_of_length_le (st := s.stream) h s.profile,
    fun h => finalize_of_le_length (st := s.stream) h hbuf s.profile⟩

/-- Settles O13: FINAL leaves the stream, so the second one computes the same digest. -/
theorem finalIsRepeatable : Obligations.FinalIsRepeatable :=
  fun s hi he => ⟨_, _, exec_final hi he, rfl, rfl, rfl, rfl,
    exec_final (s := complete (acceptJob .final s)) rfl he, rfl, rfl⟩

/-- Settles O14: the FINAL between the two ABSORBs leaves the stream, and two `Update`s are one. -/
theorem absorbAfterFinalContinues : Obligations.AbsorbAfterFinalContinues := by
  intro n1 n2 s d2 _ h14 _ h24 hi he hg
  have hop1 := operandBytes_length_of_le h14 s.din
  have hop2 := operandBytes_length_of_le h24 d2
  have hlen := absorbEffect_len_toNat (s := s) s.din h14 (by omega)
  refine ⟨_, _, _, _, exec_absorb hi he (by omega), exec_final rfl he,
    exec_absorb (s := setDin d2 (complete (acceptJob .final (complete (acceptJob (.absorb n1) s))))) rfl he ?_,
    exec_final rfl he, he, rfl, ?_⟩
  · show (absorbEffect n1 s.din s).len.toNat + 8 * n2 < 2 ^ 64
    omega
  · rw [← update_update s.profile s.stream _ _ (by rwa [hop1, hop2])]
    rfl

end Sys2Proof.Machine
end

section
/-! Digests as bytes and as text (R53, R170, R171): lists made of equal pieces, the 32 bytes of a digest, and the two digits of
a byte. -/

namespace Sys2Proof.Machine

section
variable {α β : Type} {f : α → List β} {c : Nat} (hf : ∀ a, (f a).length = c)
include hf

/-- Pieces of `c` elements make up `c` times as many elements. -/
theorem length_flatMap_of_length (l : List α) : (l.flatMap f).length = c * l.length := by
  induction l with
  | nil => rfl
  | cons a l ih => rw [List.flatMap_cons, List.length_append, hf, ih, List.length_cons, Nat.mul_succ, Nat.add_comm]

/-- Element `c * j + k` of pieces of `c` elements is element `k` of piece `j`. -/
theorem getElem?_flatMap_of_length {k : Nat} (hk : k < c) (l : List α) (j : Nat) :
    (l.flatMap f)[c * j + k]? = l[j]?.bind fun a => (f a)[k]? := by
  induction l generalizing j with
  | nil => rfl
  | cons a l ih =>
    rw [List.flatMap_cons]
    cases j with
    | zero => rw [Nat.mul_zero, Nat.zero_add, List.getElem?_append_left (by rwa [hf])]; rfl
    | succ j =>
      have hidx : c * (j + 1) + k - c = c * j + k := by rw [Nat.mul_succ]; omega
      rw [List.getElem?_append_right (by rw [hf, Nat.mul_succ]; omega), hf, hidx, ih, List.getElem?_cons_succ]

/-- Pieces of `c` elements can be told apart in what they make up, if each piece comes from one thing only. -/
theorem flatMap_injective_of_length (hc : 0 < c) (hinj : Function.Injective f) : Function.Injective (List.flatMap f) := by
  intro l l' h
  have hlen : l.length = l'.length := by
    have := congrArg List.length h
    rw [length_flatMap_of_length hf, length_flatMap_of_length hf] at this
    exact Nat.eq_of_mul_eq_mul_left hc this
  induction l generalizing l' with
  | nil => exact (List.eq_nil_of_length_eq_zero hlen.symm).symm
  | cons a l ih =>
    cases l' with
    | nil => exact List.eq_nil_of_length_eq_zero hlen
    | cons a' l' =>
      obtain ⟨ha, hl⟩ := List.append_inj h ((hf a).trans (hf a').symm)
      rw [hinj ha, ih hl (Nat.succ.inj hlen)]

end

/-- R53: eight words are 32 bytes. -/
theorem words8Bytes_length (x : Words8) : (words8Bytes x).length = 32 :=
  length_flatMap_of_length be32Bytes_length x.toList

theorem getElem?_toList {j : Nat} (hj : j < 8) (x : Words8) : x.toList[j]? = some (x.get j) := by
  interval_cases j <;> rfl

theorem getElem?_be32Bytes {k : Nat} (hk : k < 4) (w : Word) : (be32Bytes w)[k]? = some (byteLane w k) := by
  interval_cases k <;> rfl

/-- R53: byte `4 * j + k` of a digest is lane `k` of word `j`. -/
theorem getElem?_words8Bytes {j k : Nat} (hj : j < 8) (hk : k < 4) (x : Words8) :
    (words8Bytes x)[4 * j + k]? = some (byteLane (x.get j) k) := by
  rw [words8Bytes, getElem?_flatMap_of_length be32Bytes_length hk, getElem?_toList hj, Option.bind_some,
    getElem?_be32Bytes hk]

/-- R170: a digest has 32 bytes. -/
theorem digest_length (p : Profile) (m : List Byte) : (digest p m).length = 32 := words8Bytes_length _

/-- Settles O32: byte by byte. -/
theorem digestSerialisation : Obligations.DigestSerialisation := by
  refine fun p m => ⟨digest_length p m, fun hm j k hj hk => ?_⟩
  rw [digest, digestWords_eq p m hm, getElem?_words8Bytes hj hk]
  rfl

/-- R171: the digits, in the order of their values. -/
def hexDigits : List Char := ['0', '1', '2', '3', '4', '5', '6', '7', '8', '9', 'a', 'b', 'c', 'd', 'e', 'f']

theorem getElem?_hexDigits : ∀ n < 16, hexDigits[n]? = some (hexDigit n) := by decide

theorem hexDigit_inj : ∀ m < 16, ∀ n < 16, hexDigit m = hexDigit n → m = n := by decide

theorem hexByte_length (b : Byte) : (hexByte b).length = 2 := rfl

/-- R171: a byte is told by its two digits. -/
theorem hexByte_injective : Function.Injective hexByte := by
  intro b b' h
  obtain ⟨hhigh, hlow⟩ : hexDigit (b.toNat / 16) = hexDigit (b'.toNat / 16) ∧
      hexDigit (b.toNat % 16) = hexDigit (b'.toNat % 16) := by simpa [hexByte] using h
  have hb := b.isLt
  have hb' := b'.isLt
  have hdiv := hexDigit_inj _ (by omega) _ (by omega) hhigh
  have hmod := hexDigit_inj _ (by omega) _ (by omega) hlow
  apply BitVec.eq_of_toNat_eq
  omega

/-- Settles O56: two digits a byte, found by their places. -/
theorem hexDigestRendering : Obligations.HexDigestRendering := by
  refine ⟨fun p m => ?_, fun d i b hb => ?_, fun _ _ h =>
    flatMap_injective_of_length hexByte_length (by decide) hexByte_injective h⟩
  · rw [hex, length_flatMap_of_length hexByte_length, digest_length]
  · have hlt := b.isLt
    have hget {k : Nat} (hk : k < 2) : (hex d)[2 * i + k]? = (hexByte b)[k]? := by
      rw [hex, getElem?_flatMap_of_length hexByte_length hk, hb, Option.bind_some]
    exact ⟨(hget (k := 0) (by decide)).trans (getElem?_hexDigits _ (by omega)).symm,
      (hget (k := 1) (by decide)).trans (getElem?_hexDigits _ (by omega)).symm⟩

end Sys2Proof.Machine
end

section
/-! Runs of a host program (R20, R61, R76): what a run can reach, under every interleaving of host and core, one line of the
program at a time. -/

namespace Sys2Proof.Machine

/-- Some number of steps leads from `s` to a state with the property `Q`. -/
def Reaches (s : State) (Q : State → Prop) : Prop := ∃ k t, core.run k s = .next t ∧ Q t

theorem Reaches.here {s : State} {Q : State → Prop} (h : Q s) : Reaches s Q := ⟨0, s, rfl, h⟩

theorem Reaches.of_step {s t : State} {Q : State → Prop} (hs : step s = .next t) (ht : Reaches t Q) : Reaches s Q := by
  obtain ⟨k, u, hrun, hu⟩ := ht
  exact ⟨k + 1, u, (run_succ_of_next core hs).trans hrun, hu⟩

/-- The interleaving has turns of the host and of the core alone. -/
def HostAndCore (ts : List Turn) : Prop := ∀ t ∈ ts, t = .host ∨ t = .core

/-- The state with another host program, interleaving and list of words read: what lies outside the block (log 11). -/
def State.withHostSide (s : State) (ops : List HostOp) (ts : List Turn) (rs : List Word) : State :=
  { s with host := ops, turns := ts, reads := rs }

section
variable (s : State) (ops : List HostOp) (ts : List Turn) (rs : List Word)

@[simp] theorem State.withHostSide_infl : (s.withHostSide ops ts rs).infl = s.infl := rfl

@[simp] theorem State.withHostSide_busy : (s.withHostSide ops ts rs).busy = s.busy := rfl

@[simp] theorem popTurn_withHostSide :
    popTurn (s.withHostSide ops ts rs) = s.withHostSide ops ts.tail rs := rfl

/-- R151: a completion neither reads nor writes what lies outside the block. -/
theorem complete_withHostSide : complete (s.withHostSide ops ts rs) = (complete s).withHostSide ops ts rs := by
  obtain ⟨hi, h⟩ | ⟨d, hi, h⟩ | ⟨n, d, hi, h⟩ | ⟨d, hi, h⟩ := complete_cases s <;>
    rw [h, complete, State.withHostSide_infl, hi] <;> rfl

/-- R56: a read hands its word to the host; while DVALID is 1 it takes no draw and so changes nothing in the block. -/
theorem regRead_withHostSide {s : State} (hv : s.dvalid = true) (off : Nat) :
    regRead off (s.withHostSide ops ts rs) = s.withHostSide ops ts (regValue off s :: rs) := by
  have hdraws : readDraws off (s.withHostSide ops ts rs) = false := by simp [readDraws, State.withHostSide, hv]
  rw [regRead, hdraws]
  rfl

end

section
variable {s : State} {ops rest : List HostOp} {ts : List Turn} {rs : List Word} {Q : State → Prop}

/-- R151: a turn of the core completes the command in flight. -/
theorem step_of_core (hn : nextTurn (s.withHostSide ops ts rs) = .core) :
    step (s.withHostSide ops ts rs) = .next ((complete s).withHostSide ops ts.tail rs) := by
  rw [step, hn, ← complete_withHostSide]
  rfl

/-- R20: a turn of the host makes its next access. -/
theorem step_of_access {a : Access} (hn : nextTurn (s.withHostSide (.access a :: rest) ts rs) = .host) :
    step (s.withHostSide (.access a :: rest) ts rs) = performAccess a (s.withHostSide rest ts.tail rs) := by
  rw [step, hn]
  rfl

/-- R76: POLL reads STATUS; it is over when nothing is in flight, and comes again otherwise. -/
theorem step_of_poll (hn : nextTurn (s.withHostSide (.poll :: rest) ts rs) = .host) :
    step (s.withHostSide (.poll :: rest) ts rs) =
      .next (s.withHostSide (if s.busy then .poll :: rest else rest) ts.tail (statusWord s :: rs)) := by
  rw [step, hn, popTurn_withHostSide, takeTurn, hostStep_poll rfl, State.withHostSide_busy]
  cases s.busy <;> rfl

/-- R20: an interleaving that has run out leaves the turn to the host while nothing is in flight. -/
theorem nextTurn_of_idle (hb : s.busy = false) : nextTurn (s.withHostSide ops [] rs) = .host := by
  show (if s.busy then Turn.core else Turn.host) = .host
  rw [hb, if_neg Bool.false_ne_true]

/-- R228: an interleaving that has run out gives the turn to the core while a command is in flight. -/
theorem nextTurn_of_busy (hb : s.busy = true) : nextTurn (s.withHostSide ops [] rs) = .core := by
  show (if s.busy then Turn.core else Turn.host) = .core
  rw [hb, if_pos rfl]

/-- R20: with nothing in flight, whatever the interleaving, what happens next is the host's next access. -/
theorem reaches_of_access {a : Access} (hi : s.infl = none) (hts : HostAndCore ts)
    (h : ∀ ts, HostAndCore ts → ∃ t, performAccess a (s.withHostSide rest ts rs) = .next t ∧ Reaches t Q) :
    Reaches (s.withHostSide (.access a :: rest) ts rs) Q := by
  induction ts with
  | nil =>
    obtain ⟨t, hstep, ht⟩ := h [] nofun
    exact .of_step ((step_of_access (nextTurn_of_idle ((not_busy_iff s).2 hi))).trans hstep) ht
  | cons turn ts ih =>
    obtain ⟨hturn, hts'⟩ := List.forall_mem_cons.1 hts
    obtain rfl | rfl := hturn
    · obtain ⟨t, hstep, ht⟩ := h ts hts'
      exact .of_step ((step_of_access rfl).trans hstep) ht
    · refine .of_step (step_of_core rfl) ?_
      rw [complete_of_infl_none hi]
      exact ih hts'

/-- R76: a POLL that the host makes with nothing in flight is over. -/
theorem reaches_of_last_poll (hb : s.busy = false) (hn : nextTurn (s.withHostSide (.poll :: rest) ts rs) = .host)
    (h : ∀ rs, Reaches (s.withHostSide rest ts.tail rs) Q) : Reaches (s.withHostSide (.poll :: rest) ts rs) Q := by
  refine .of_step (step_of_poll hn) ?_
  rw [hb]
  exact h _

/-- R76, R228: whatever the interleaving, POLL comes to its end, with the command in flight completed. -/
theorem reaches_of_poll (hts : HostAndCore ts)
    (h : ∀ ts rs, HostAndCore ts → Reaches ((complete s).withHostSide rest ts rs) Q) :
    Reaches (s.withHostSide (.poll :: rest) ts rs) Q := by
  induction ts generalizing s rs with
  | nil =>
    cases hb : s.busy with
    | false => exact reaches_of_last_poll hb (nextTurn_of_idle hb) fun rs => complete_of_not_busy hb ▸ h [] rs nofun
    | true =>
      have hdone : (complete s).busy = false := (not_busy_iff _).2 (complete_infl s)
      refine .of_step (step_of_core (nextTurn_of_busy hb)) ?_
      exact reaches_of_last_poll hdone (nextTurn_of_idle hdone) fun rs => h [] rs nofun
  | cons turn ts ih =>
    obtain ⟨hturn, hts'⟩ := List.forall_mem_cons.1 hts
    obtain rfl | rfl := hturn
    · cases hb : s.busy with
      | false => exact reaches_of_last_poll hb rfl fun rs => complete_of_not_busy hb ▸ h ts rs hts'
      | true =>
        refine .of_step (step_of_poll rfl) ?_
        rw [hb]
        exact ih hts' h
    · have htwice : complete (complete s) = complete s := complete_of_infl_none (complete_infl s)
      exact .of_step (step_of_core rfl) (ih hts' (htwice.symm ▸ h))

/-- R61, R76: a command that is accepted is complete when the POLL after it is over. -/
theorem reaches_of_command {i : Instr} {t : State} (hi : s.infl = none) (hwf : WellFormed i)
    (hexec : ∀ ops ts rs, exec i (s.withHostSide ops ts rs) = .next (t.withHostSide ops ts rs)) (hts : HostAndCore ts)
    (h : ∀ ts rs, HostAndCore ts → Reaches ((complete t).withHostSide rest ts rs) Q) :
    Reaches (s.withHostSide (commandWrite (encode i) :: .poll :: rest) ts rs) Q := by
  refine reaches_of_access hi hts fun ts hts => ⟨t.withHostSide (.poll :: rest) ts rs, ?_, reaches_of_poll hts h⟩
  exact (acceptCommand_of_decode (decode_encode hwf) _).trans (hexec _ _ _)

end

end Sys2Proof.Machine
end

section
/-! The host program of a hash (R77, R175 to R177): START, the ABSORBs, FINAL and the eight reads, one after the other. -/

namespace Sys2Proof.Machine

/-- Nothing is in flight and no error recorded, and the stream is that of the message `m` under the tables of `p`. -/
structure State.Holds (p : Profile) (m : List Byte) (s : State) : Prop where
  infl : s.infl = none
  err : s.err = false
  profile : s.profile = p
  stream : s.StreamIs m

/-- R57: a write to DIN sets it. -/
theorem performAccess_write_din (v : Word) (s : State) :
    performAccess ⟨0x08, 32, .write v⟩ s = .next (setDin v s) :=
  (performAccess_write (by decide) (by decide) v s).trans rfl

section
variable {p : Profile} {m : List Byte} {s : State} {rest : List AsmLine} {ts : List Turn} {rs : List Word} {Q : State → Prop}
  (hts : HostAndCore ts)
include hts

/-- R77, R153: START leaves the stream of the empty message. -/
theorem reaches_of_start (hi : s.infl = none)
    (h : ∀ (t : State) ts rs, t.Holds s.profile [] → HostAndCore ts → Reaches (t.withHostSide (assemble rest) ts rs) Q) :
    Reaches (s.withHostSide (assemble (startLines ++ rest)) ts rs) Q :=
  reaches_of_command (t := acceptJob .init (clearError s)) hi (i := .init) rfl
    (fun ops ts rs => exec_init (s := s.withHostSide ops ts rs) hi) hts fun ts rs =>
    h _ ts rs ⟨rfl, rfl, rfl, streamIs_nil rfl⟩

/-- R54, R154: a write to DIN and an ABSORB extend the message by the operand bytes of the word. -/
theorem reaches_of_absorb {n : Nat} {v : Word} (hs : s.Holds p m) (hn : 1 ≤ n ∧ n ≤ 4)
    (hroom : 8 * (m.length + n) < 2 ^ 64)
    (h : ∀ (t : State) ts rs, t.Holds p (m ++ operandBytes n v) → HostAndCore ts →
      Reaches (t.withHostSide (assemble rest) ts rs) Q) :
    Reaches (s.withHostSide (assemble (.wr .din v :: .wrCmd (.absorb n) :: .poll :: rest)) ts rs) Q := by
  obtain ⟨hi, he, hp, hm⟩ := hs
  have hlen : s.len.toNat + 8 * n < 2 ^ 64 := by rwa [hm.len_toNat, ← Nat.mul_add]
  have hnext : (absorbEffect n v (setDin v s)).StreamIs (m ++ operandBytes n v) :=
    State.StreamIs.absorbEffect (s := setDin v s) hm hn.2 v hlen
  refine reaches_of_access hi hts fun ts hts => ⟨_, performAccess_write_din v _, ?_⟩
  exact reaches_of_command (s := setDin v s) (t := acceptJob (.absorb n) (setDin v s)) hi (wellFormed_absorb_iff.2 hn)
    (fun ops ts rs => exec_absorb (s := (setDin v s).withHostSide ops ts rs) hi he hlen) hts fun ts rs =>
      h _ ts rs ⟨rfl, he, hp, hnext⟩

/-- R77: FEED extends the message by its bytes. -/
theorem reaches_of_feed {c : List Byte} (hs : s.Holds p m) (hc : 1 ≤ c.length ∧ c.length ≤ 4)
    (hroom : 8 * (m ++ c).length < 2 ^ 64)
    (h : ∀ (t : State) ts rs, t.Holds p (m ++ c) → HostAndCore ts → Reaches (t.withHostSide (assemble rest) ts rs) Q) :
    Reaches (s.withHostSide (assemble (feedLines c ++ rest)) ts rs) Q :=
  reaches_of_absorb hts hs hc (by rwa [← List.length_append]) (by rwa [operandBytes_packBytes hc.2])

/-- R77, R175: UPDATE extends the message by its chunks, whatever their sizes. -/
theorem reaches_of_update {chunks : List (List Byte)} (hs : s.Holds p m)
    (hchunks : ∀ c ∈ chunks, 1 ≤ c.length ∧ c.length ≤ 4) (hroom : 8 * (m ++ chunks.flatten).length < 2 ^ 64)
    (h : ∀ (t : State) ts rs, t.Holds p (m ++ chunks.flatten) → HostAndCore ts →
      Reaches (t.withHostSide (assemble rest) ts rs) Q) :
    Reaches (s.withHostSide (assemble (updateChunkLines chunks ++ rest)) ts rs) Q := by
  induction chunks generalizing m s ts rs with
  | nil => exact h s ts rs (by rwa [List.flatten_nil, List.append_nil]) hts
  | cons c cs ih =>
    obtain ⟨hc, hcs⟩ := List.forall_mem_cons.1 hchunks
    rw [List.flatten_cons, ← List.append_assoc] at hroom h
    rw [updateChunkLines, List.flatMap_cons, List.append_assoc]
    have hfirst : 8 * (m ++ c).length < 2 ^ 64 := by
      rw [List.length_append] at hroom
      omega
    exact reaches_of_feed hts hs hc hfirst fun t ts rs ht hts => ih hts ht hcs hroom h

/-- R77, R155: FINAL leaves a valid digest, that of the message. -/
theorem reaches_of_final (hs : s.Holds p m)
    (h : ∀ (t : State) ts rs, t.Holds p m → t.dvalid = true → t.dig = digestWords p m → HostAndCore ts →
      Reaches (t.withHostSide (assemble rest) ts rs) Q) :
    Reaches (s.withHostSide (assemble (.wrCmd .final :: .poll :: rest)) ts rs) Q := by
  obtain ⟨hi, he, hp, hm⟩ := hs
  have hdig : finalize s.profile s.stream = digestWords p m := by
    rw [digestWords_eq p m hm.1, hm.2, hp]
  exact reaches_of_command (t := acceptJob .final s) hi (i := .final) rfl
    (fun ops ts rs => exec_final (s := s.withHostSide ops ts rs) hi he) hts fun ts rs =>
    h _ ts rs ⟨rfl, he, hp, hm⟩ rfl hdig

/-- R37, R76: reads of digest registers, once the digest is valid, hand its words to the host. -/
theorem reaches_of_digest_reads (hi : s.infl = none) (hv : s.dvalid = true) {js : List Nat} (hjs : ∀ j ∈ js, j < 8)
    (h : ∀ ts, Reaches (s.withHostSide [] ts ((js.map s.dig.get).reverse ++ rs)) Q) :
    Reaches (s.withHostSide (assemble (js.map fun j => .rd (.digest j))) ts rs) Q := by
  induction js generalizing ts rs with
  | nil => exact h ts
  | cons j js ih =>
    obtain ⟨hj, hjs⟩ := List.forall_mem_cons.1 hjs
    refine reaches_of_access hi hts fun ts hts => ⟨s.withHostSide _ ts (s.dig.get j :: rs), ?_, ih hts hjs fun ts => ?_⟩
    · have hwin : 0x10 + 4 * j < 0x40 ∧ (0x10 + 4 * j) % 4 = 0 := by omega
      rw [regOffset, performAccess_read hwin.1 hwin.2, regRead_withHostSide _ _ _ hv, regValue_digest hj hv]
      rfl
    · simpa using h ts

end

/-- R177: a run of the hash program ends with the stream of the message, a valid digest, and its eight words read. -/
theorem reaches_end_of_hash {s : State} {chunks : List (List Byte)} (hi : s.infl = none)
    (hhost : s.host = assemble (hashChunkLines chunks)) (hts : HostAndCore s.turns)
    (hchunks : ∀ c ∈ chunks, 1 ≤ c.length ∧ c.length ≤ 4) (hroom : 8 * chunks.flatten.length < 2 ^ 64) :
    Reaches s fun t => t.host = [] ∧ t.Holds s.profile chunks.flatten ∧ t.dvalid = true ∧
      (t.reads.take 8).reverse = (digestWords s.profile chunks.flatten).toList := by
  have hs : s = s.withHostSide (assemble (startLines ++ (updateChunkLines chunks ++ digestLines))) s.turns s.reads := by
    rw [← List.append_assoc, ← hashChunkLines, ← hhost]
    rfl
  rw [hs]
  refine reaches_of_start hts hi fun t ts rs ht hts => ?_
  refine reaches_of_update hts ht hchunks hroom fun t ts rs ht hts => ?_
  refine reaches_of_final hts ht fun t ts rs ht hv hdig hts => ?_
  refine reaches_of_digest_reads hts ht.infl hv (fun j => List.mem_range.1) fun ts => .here ⟨rfl, ?_, hv, ?_⟩
  · exact ⟨ht.infl, ht.err, ht.profile, ht.stream⟩
  · rw [hdig]
    rfl

/-- Settles O57: the words read are the digest's, and their bytes are those of `Digest`. -/
theorem hashProgramComputesTheDigest : Obligations.HashProgramComputesTheDigest := by
  intro s chunks hi hhost hts hchunks hroom
  obtain ⟨k, t, hrun, hend, ht, hv, hreads⟩ := reaches_end_of_hash hi hhost hts hchunks hroom
  refine ⟨k, t, hrun, hend, ht.infl, ht.err, hv, ?_, hreads, ?_, digest_length _ _⟩
  · rw [← ht.profile]
    exact ht.stream.2
  · rw [hreads]
    rfl

/-- Settles O58: both runs read the words of the one digest. -/
theorem digestIndependentOfLatencyAndChunking : Obligations.DigestIndependentOfLatencyAndChunking := by
  intro s s' chunks chunks' hp hi hi' hhost hhost' hts hts' hchunks hchunks' hflat hroom
  obtain ⟨k, t, hrun, hend, -, -, hreads⟩ := reaches_end_of_hash hi hhost hts hchunks hroom
  obtain ⟨k', t', hrun', hend', -, -, hreads'⟩ := reaches_end_of_hash hi' hhost' hts' hchunks' (hflat ▸ hroom)
  refine ⟨k, t, k', t', hrun, hend, hrun', hend', List.reverse_injective ?_⟩
  rw [hreads, hreads', hp, hflat]

end Sys2Proof.Machine
end

section
/-! The locked engine (R203, R208): it drops every word but INIT's, and INIT unlocks it. -/

namespace Sys2Proof.Machine

/-- R202: an error after the first one changes nothing. -/
theorem raiseError_of_err {s : State} (he : s.err = true) (e : ErrorKind) : raiseError e s = s := by
  rw [raiseError, if_pos he]

/-- R203: whatever check decides it, a word other than INIT's leaves a locked engine as it is. -/
theorem Accepted.eq_of_locked {v : Word} {s t : State} (h : Accepted v s t) (he : s.err = true)
    (hinit : decode v ≠ .ok .init) : t = s := by
  have hlocked : s.err ≠ false := by simp [he]
  cases h with
  | nop _ ht => exact ht
  | busy _ _ ht => exact ht.trans (raiseError_of_err he _)
  | illegal _ _ _ ht => exact ht.trans (raiseError_of_err he _)
  | locked _ _ _ ht => exact ht
  | overflow _ hfree _ _ _ _ => exact absurd hfree hlocked
  | init _ hd _ => exact absurd hd hinit
  | absorb _ hfree _ _ _ _ => exact absurd hfree hlocked
  | final _ hfree _ _ => exact absurd hfree hlocked

/-- R31, R153: once INIT is accepted, STATUS shows BUSY alone. -/
theorem statusWord_acceptJob_init (s : State) : statusWord (acceptJob .init (clearError s)) = 0x00000001 := by
  simp [statusWord, flagWord, State.busy]

/-- Settles O6: acceptance always answers, by its checks with the engine as it was, and INIT's acceptance clears the error. -/
theorem lockedEngineTakesOnlyInit : Obligations.LockedEngineTakesOnlyInit := by
  refine fun v s he => ⟨fun hinit => ?_, fun hd hi => ?_⟩
  · obtain ⟨t, hnext, ha⟩ := acceptCommand_cases v s
    rwa [ha.eq_of_locked he hinit] at hnext
  · exact ⟨_, (acceptCommand_of_decode hd s).trans (exec_init hi), rfl, rfl, rfl, statusWord_acceptJob_init s⟩

end Sys2Proof.Machine
end

section
/-! The command in flight (R36, R209, R225): what the host can write while there is one, and that its completion reads none of
it. -/

namespace Sys2Proof.Machine

/-- The state `s` with the values that `t` has in the fields an access can write while a command is in flight: DIN, ERR, ERRCODE,
and the record of the reads. -/
def State.withHostWritesOf (s t : State) : State :=
  { s with din := t.din, err := t.err, errcode := t.errcode, reads := t.reads, draws := t.draws }

@[simp] theorem State.withHostWritesOf_infl (s t : State) : (s.withHostWritesOf t).infl = s.infl := rfl

/-- R151: a completion neither reads nor writes what an access can write while a command is in flight. -/
theorem complete_withHostWritesOf (s t : State) :
    complete (s.withHostWritesOf t) = (complete s).withHostWritesOf t := by
  obtain ⟨hi, h⟩ | ⟨d, hi, h⟩ | ⟨n, d, hi, h⟩ | ⟨d, hi, h⟩ := complete_cases s <;>
    rw [h, complete, State.withHostWritesOf_infl, hi] <;> rfl

/-- R202: raising an error writes ERR and ERRCODE at most. -/
theorem raiseError_eq_withHostWritesOf (e : ErrorKind) (s : State) :
    raiseError e s = s.withHostWritesOf (raiseError e s) := by
  obtain ⟨-, h⟩ | ⟨-, h⟩ := raiseError_cases e s <;> rw [h] <;> rfl

/-- R150, check 2: a write to CMD while a command is in flight is NOP's or an error. -/
theorem Accepted.eq_withHostWritesOf {v : Word} {s t : State} (h : Accepted v s t) (hi : s.infl ≠ none) :
    t = s.withHostWritesOf t := by
  cases h with
  | nop _ ht => exact ht ▸ rfl
  | busy _ _ ht => exact ht ▸ raiseError_eq_withHostWritesOf _ s
  | illegal hb _ _ _ => exact absurd hb hi
  | locked hb _ _ _ => exact absurd hb hi
  | overflow hb _ _ _ _ _ => exact absurd hb hi
  | init hb _ _ => exact absurd hb hi
  | absorb hb _ _ _ _ _ => exact absurd hb hi
  | final hb _ _ _ => exact absurd hb hi

/-- R209: all that an access can write while a command is in flight. -/
theorem Accessed.eq_withHostWritesOf {a : Access} {s t : State} (h : Accessed a s t) (hi : s.infl ≠ none) :
    t = s.withHostWritesOf t := by
  cases h with
  | read _ ht => exact ht ▸ rfl
  | din _ _ ht => exact ht ▸ rfl
  | ignored ht => exact ht ▸ rfl
  | command _ _ hc => exact hc.eq_withHostWritesOf hi

/-- Settles O7: the access writes nothing that the completion reads or writes. -/
theorem hostCannotDisturbCommandInFlight : Obligations.HostCannotDisturbCommandInFlight := by
  intro a s t hi h
  have ht : t = s.withHostWritesOf t := (accessed_of_performAccess h).eq_withHostWritesOf hi
  have hc : complete t = (complete s).withHostWritesOf t := (congrArg complete ht).trans (complete_withHostWritesOf s t)
  refine ⟨(congrArg State.infl ht).trans (s.withHostWritesOf_infl t), ?_, ?_, ?_, ?_, ?_, complete_infl t⟩ <;> rw [hc] <;> rfl

end Sys2Proof.Machine
end

section
/-! Who writes ERR and ERRCODE (R34, R35, R201, R208): command acceptance, check by check, and no other access of the host. -/

namespace Sys2Proof.Machine

/-- Neither ERR nor ERRCODE differs between the two states. -/
def SameError (s t : State) : Prop := t.err = s.err ∧ t.errcode = s.errcode

theorem SameBlock.sameError {s t : State} (hb : SameBlock s t) : SameError s t := ⟨hb.err, hb.errcode⟩

/-- R150, R201: the check that rejects the word `v` in the state `s` has the code `c`. -/
def RejectedWith (v : Word) (s : State) (c : BitVec 4) : Prop :=
  (c = 1 ∧ s.infl = none ∧ ∃ r, decode v = .error r) ∨
  (c = 2 ∧ s.infl ≠ none ∧ decode v ≠ .ok .nop) ∨
  (c = 3 ∧ s.infl = none ∧ ∃ n, decode v = .ok (.absorb n) ∧ 2 ^ 64 ≤ s.len.toNat + 8 * n)

/-- R202, R208: the word `v` raised the first error, or it is INIT's and cleared the error. -/
def ErrorWrittenBy (v : Word) (s t : State) : Prop :=
  (s.err = false ∧ t.err = true ∧ RejectedWith v s t.errcode) ∨
  (decode v = .ok .init ∧ s.infl = none ∧ t.err = false ∧ t.errcode = 0)

/-- R202: an error raised by the check that rejects `v` is recorded with that check's code, or is not the first. -/
theorem raiseError_error_cases {v : Word} {s : State} {e : ErrorKind} (hr : RejectedWith v s (errorCode e)) :
    SameError s (raiseError e s) ∨ ErrorWrittenBy v s (raiseError e s) := by
  obtain ⟨-, h⟩ | ⟨he, h⟩ := raiseError_cases e s <;> rw [h]
  · exact .inl ⟨rfl, rfl⟩
  · exact .inr (.inl ⟨he, rfl, hr⟩)

/-- R150: what a write to CMD does to the error, check by check. -/
theorem Accepted.error_cases {v : Word} {s t : State} (h : Accepted v s t) : SameError s t ∨ ErrorWrittenBy v s t := by
  cases h with
  | nop _ ht => exact ht ▸ .inl ⟨rfl, rfl⟩
  | busy hb hd ht => exact ht ▸ raiseError_error_cases (.inr (.inl ⟨rfl, hb, hd⟩))
  | illegal hb r hd ht => exact ht ▸ raiseError_error_cases (.inl ⟨rfl, hb, r, hd⟩)
  | locked _ _ _ ht => exact ht ▸ .inl ⟨rfl, rfl⟩
  | overflow hb _ n hd hl ht => exact ht ▸ raiseError_error_cases (.inr (.inr ⟨rfl, hb, n, hd, hl⟩))
  | init hb hd ht => exact ht ▸ .inr (.inr ⟨hd, hb, rfl, rfl⟩)
  | absorb _ _ _ _ _ ht => exact ht ▸ .inl ⟨rfl, rfl⟩
  | final _ _ _ ht => exact ht ▸ .inl ⟨rfl, rfl⟩

/-- R34, R35: an access that writes the error is the write of a word to CMD. -/
theorem Accessed.error_cases {a : Access} {s t : State} (h : Accessed a s t) :
    SameError s t ∨ ∃ v, a = ⟨0x00, 32, .write v⟩ ∧ ErrorWrittenBy v s t := by
  cases h with
  | read _ ht => exact .inl (ht ▸ (sameBlock_regRead _ s).sameError)
  | din v _ ht => exact .inl (ht ▸ (sameBlock_setDin v s).sameError)
  | ignored ht => exact .inl (ht ▸ ⟨rfl, rfl⟩)
  | command v ha hc => exact hc.error_cases.imp_right fun hw => ⟨v, ha, hw⟩

/-- R20, R201: a step that writes the error is a reset, or the host's write of a word to CMD. -/
theorem error_cases_of_step {s t : State} (h : step s = .next t) :
    SameError s t ∨ nextTurn s = .reset ∨
      (nextTurn s = .host ∧ ∃ v, s.host.head? = some (commandWrite v) ∧ ErrorWrittenBy v s t) := by
  cases stepped_of_step h with
  | core _ ht => exact .inl (ht ▸ ⟨complete_err _, complete_errcode _⟩)
  | reset hn _ => exact .inr (.inl hn)
  | idle _ _ ht => exact .inl (ht ▸ (sameBlock_popTurn s).sameError)
  | access hn a rest hh ha =>
    refine ha.error_cases.imp_right fun ⟨v, hav, hw⟩ => .inr ⟨hn, v, ?_, hw⟩
    rw [hh, hav]
    rfl
  | poll _ _ _ ht =>
    subst ht
    cases s.busy <;> exact .inl ⟨rfl, rfl⟩

/-- Settles O8: by the agent that moves, and by the check of acceptance. -/
theorem onlyCommandWritesAndResetChangeTheError : Obligations.OnlyCommandWritesAndResetChangeTheError :=
  fun _ _ h hne => (error_cases_of_step h).resolve_left fun ⟨he, hc⟩ => hne.elim (absurd he) (absurd hc)

end Sys2Proof.Machine
end

section
/-! Reset (R162, R220, R221): the state it leaves, at power up and at any step, and that this state meets the invariants. -/

namespace Sys2Proof.Machine

/-- R31, R220: after reset STATUS reads 0. -/
theorem statusWord_resetWith (p : Profile) (d : Words8) : statusWord (State.resetWith p d) = 0x00000000 := by
  simp [statusWord, flagWord, State.busy, State.resetWith]

/-- R220, R221: a reset turn is the reset event, whatever is in flight. -/
theorem step_of_reset {s : State} {ts : List Turn} (h : s.turns = .reset :: ts) :
    step s = .next (resetEvent { s with turns := ts }) := by
  rw [step, nextTurn_of_turns_eq_cons h, popTurn, h, List.tail_cons]
  rfl

/-- Settles O43: the fields are those of `State.resetWith`, and a reset turn is the reset event. -/
theorem resetLeavesTheInitialState : Obligations.ResetLeavesTheInitialState :=
  ⟨fun p d => ⟨rfl, rfl, rfl, rfl, rfl, rfl, statusWord_resetWith p d⟩, ⟨_, _, rfl⟩,
    fun _ _ h => ⟨_, _, step_of_reset h⟩, initEffect_stream⟩

/-- Settles O47: the stream after reset is `Init`, that of the empty message, and no digest is valid. -/
theorem resetMeetsTheInvariants : Obligations.ResetMeetsTheInvariants := by
  intro p d
  have hm : (State.resetWith p d).StreamIs [] := streamIs_nil rfl
  exact ⟨resetWith_inv p d, hm, .of_streamIs hm rfl rfl⟩

end Sys2Proof.Machine
end

section
/-! Completion in a bounded number of steps (R151, R228): until the core moves, every step of a host in contract keeps the
command in flight, and uses up a turn of the interleaving. -/

namespace Sys2Proof.Machine

/-- At most `n` steps of the machine `M` lead from `s` to a state with the property `Q`. -/
def ReachesWithin (M : Host.Core) (n : Nat) (s : M.State) (Q : M.State → Prop) : Prop :=
  ∃ k t, k ≤ n ∧ M.run k s = .next t ∧ Q t

section
variable {M : Host.Core} {n : Nat} {s t : M.State} {Q : M.State → Prop}

theorem ReachesWithin.here (h : Q s) : ReachesWithin M n s Q := ⟨0, s, Nat.zero_le n, rfl, h⟩

theorem ReachesWithin.of_step (hs : M.step s = .next t) (ht : ReachesWithin M n t Q) :
    ReachesWithin M (n + 1) s Q := by
  obtain ⟨k, u, hk, hrun, hu⟩ := ht
  exact ⟨k + 1, u, Nat.succ_le_succ hk, (run_succ_of_next M hs).trans hrun, hu⟩

end

/-- R209: no access of the host takes away or replaces a command in flight. -/
theorem Accessed.infl_eq {a : Access} {s t : State} {f : InFlight} (h : Accessed a s t) (hf : s.infl = some f) :
    t.infl = some f := by
  have hi : s.infl ≠ none := by simp [hf]
  rw [h.eq_withHostWritesOf hi, State.withHostWritesOf_infl, hf]

/-- The host's program has lines inside the interface contract alone (R58). -/
def State.HostInContract (s : State) : Prop := ∀ o ∈ s.host, o.inContract = true

/-- R58, R209: a host in contract always has a step, and that step keeps the command in flight. -/
theorem hostStep_of_inFlight {s : State} {f : InFlight} (hc : s.HostInContract) (hf : s.infl = some f) :
    ∃ t, hostStep s = .next t ∧ t.infl = some f ∧ t.turns = s.turns ∧ t.HostInContract := by
  cases hh : s.host with
  | nil => exact ⟨s, by rw [hostStep, hh], hf, rfl, hc⟩
  | cons o rest =>
    have ho : o.inContract = true := hc o (hh ▸ List.mem_cons_self)
    have hrest : State.HostInContract { s with host := rest } := fun o' ho' => hc o' (hh ▸ List.mem_cons_of_mem o ho')
    cases o with
    | access a =>
      obtain ⟨t, ht⟩ := performAccess_next a { s with host := rest } ho
      have ha := accessed_of_performAccess ht
      obtain ⟨-, -, -, -, -, hhost, hturns, -⟩ := ha.frame
      exact ⟨t, (hostStep_access hh).trans ht, ha.infl_eq hf, hturns, by rwa [State.HostInContract, hhost]⟩
    | poll =>
      have hb : s.busy = true := (busy_iff s).2 (by simp [hf])
      exact ⟨regRead 0x04 s, by rw [hostStep_poll hh, if_pos hb], hf, rfl, hc⟩

/-- The command `f` is in flight and the core moves next. -/
def State.AboutToComplete (f : InFlight) (s : State) : Prop := s.infl = some f ∧ nextTurn s = .core

/-- R228: under every interleaving of host and core, the core moves before or when the interleaving has run out. -/
theorem reachesWithin_aboutToComplete {s : State} {f : InFlight} (hts : HostAndCore s.turns) (hc : s.HostInContract)
    (hf : s.infl = some f) : ReachesWithin core s.turns.length s (State.AboutToComplete f) := by
  induction h : s.turns generalizing s with
  | nil =>
    have hb : s.busy = true := (busy_iff s).2 (by simp [hf])
    exact .here ⟨hf, by simp only [nextTurn, h, hb, if_true]⟩
  | cons turn ts ih =>
    have hn := nextTurn_of_turns_eq_cons h
    obtain ⟨hturn, hts'⟩ := List.forall_mem_cons.1 (h ▸ hts)
    obtain rfl | rfl := hturn
    · obtain ⟨t, ht, htf, hturns, htc⟩ := hostStep_of_inFlight (s := popTurn s) hc hf
      have hstep : step s = .next t := by rw [step, hn]; exact ht
      rw [popTurn_turns, h, List.tail_cons] at hturns
      exact .of_step hstep (ih (hturns ▸ hts') htc htf hturns)
    · exact .here ⟨hf, hn⟩

/-- Settles O42: the state in which the core moves is reached, and the core's step is the completion. -/
theorem commandInFlightCompletes : Obligations.CommandInFlightCompletes := by
  intro s hts hc hi
  obtain ⟨f, hf⟩ := Option.ne_none_iff_exists'.1 hi
  obtain ⟨k, (t : State), hk, hrun, htf, hn⟩ := reachesWithin_aboutToComplete hts hc hf
  refine ⟨k, t, complete (popTurn t), hk, hrun, htf.trans hf.symm, hn, ?_, complete_infl _⟩
  rw [step, hn]
  rfl

end Sys2Proof.Machine
end

section
/-! Completion in a row of engines (R39, R151, R228): an event in contract has a step and keeps the command in flight of every
engine that it neither completes nor resets; once the events have run out, each step completes one engine more. -/

namespace Sys2Proof.Machine

/-- R213: an address is routed to an engine of the row. -/
theorem lt_of_routeAccess_eq_some {n addr k : Nat} (h : routeAccess n addr = some k) : k < n := by
  simp only [routeAccess] at h
  split at h
  · rename_i hfilter
    cases h
    exact List.mem_range.1 (List.mem_filter.1 (hfilter ▸ List.mem_singleton_self k)).1
  · cases h

/-- R58, R65: an event in contract reaches an engine of the row, and has a step there. -/
theorem SysEvent.exists_target_of_inContract {n : Nat} {e : SysEvent} (h : e.inContract n = true) :
    ∃ j, j < n ∧ eventTarget n e = some j ∧ ∀ s, ∃ t, eventAction j e s = .next t := by
  cases e with
  | access addr bits kind =>
    simp only [SysEvent.inContract] at h
    split at h
    · rename_i j hj
      exact ⟨j, lt_of_routeAccess_eq_some hj, hj, fun s => performAccess_next _ s h⟩
    · cases h
  | core j => exact ⟨j, of_decide_eq_true h, rfl, fun _ => ⟨_, rfl⟩⟩
  | reset j => exact ⟨j, of_decide_eq_true h, rfl, fun _ => ⟨_, rfl⟩⟩
  | secondHost _ => cases h

/-- R209: of the events that reach an engine, only its completion and its reset touch its command in flight. -/
theorem infl_eq_of_eventAction {n k : Nat} {e : SysEvent} {s t : State} {f : InFlight}
    (hk : eventTarget n e = some k) (h : eventAction k e s = .next t) (hcore : e ≠ .core k) (hreset : e ≠ .reset k)
    (hf : s.infl = some f) : t.infl = some f := by
  cases e with
  | access addr bits kind => exact (accessed_of_performAccess h).infl_eq hf
  | core _ => cases hk; exact absurd rfl hcore
  | reset _ => cases hk; exact absurd rfl hreset
  | secondHost _ => cases h

namespace System

/-- The command `f` is in flight in engine `k`. -/
def InFlightAt (k : Nat) (f : InFlight) (y : System) : Prop := ∃ s, y.instances[k]? = some s ∧ s.infl = some f

/-- The command `f` is in flight in engine `k`, and the row's next event is its completion. -/
def AboutToComplete (k : Nat) (f : InFlight) (y : System) : Prop :=
  y.InFlightAt k f ∧ y.nextEvent = some (.core k)

section
variable {y : System} {j k : Nat} {s t : State} {f : InFlight}

/-- R39: the command in flight of engine `k` is still there after a step that acts on another engine, or keeps it. -/
theorem InFlightAt.setInstance (hk : y.InFlightAt k f) (ht : j = k → t.infl = some f) :
    (y.popEvent.setInstance j t).InFlightAt k f := by
  obtain ⟨s, hs, hf⟩ := hk
  simp only [InFlightAt, instances_setInstance, instances_popEvent]
  by_cases hjk : j = k
  · subst hjk
    have hlt : j < y.instances.length := (List.getElem?_eq_some_iff.1 hs).1
    exact ⟨t, List.getElem?_set_self hlt, ht rfl⟩
  · exact ⟨s, (List.getElem?_set_ne hjk).trans hs, hf⟩

/-- R151: a completion event completes the command of its engine. -/
theorem step_of_core (he : y.nextEvent = some (.core j)) (hs : y.instances[j]? = some s) :
    y.step = .next (y.popEvent.setInstance j (complete (setDraws y.draws s))) :=
  step_of_action he rfl hs rfl

/-- R58: the first event, when it is in contract, has a step, and one that neither completes nor resets engine `k` keeps the
command in flight there. -/
theorem exists_step_of_inContract {e : SysEvent} {es : List SysEvent} (hev : y.events = e :: es)
    (hc : e.inContract y.instances.length = true) (hcore : e ≠ .core k) (hreset : e ≠ .reset k)
    (hk : y.InFlightAt k f) :
    ∃ z, y.step = .next z ∧ z.events = es ∧ z.instances.length = y.instances.length ∧ z.InFlightAt k f := by
  obtain ⟨j, hlt, hj, hact⟩ := SysEvent.exists_target_of_inContract hc
  have hs : y.instances[j]? = some y.instances[j] := List.getElem?_eq_getElem hlt
  obtain ⟨t, ht⟩ := hact (setDraws y.draws y.instances[j])
  refine ⟨_, step_of_action (nextEvent_cons hev) hj hs ht, by simp [hev], by simp, hk.setInstance ?_⟩
  rintro rfl
  obtain ⟨s, hs', hf⟩ := hk
  obtain rfl : y.instances[j] = s := Option.some.inj (hs.symm.trans hs')
  exact infl_eq_of_eventAction hj ht hcore hreset hf

/-- R151: when the events have run out while a command is in flight, the next event is a completion in a busy engine (log 26). -/
theorem exists_nextEvent_of_drained (hev : y.events = []) (hk : y.InFlightAt k f) :
    ∃ j, ∃ hj : j < y.instances.length, y.nextEvent = some (.core j) ∧ y.instances[j].busy = true := by
  obtain ⟨s, hs, hf⟩ := hk
  have hb : s.busy = true := (busy_iff s).2 (by simp [hf])
  cases hfind : y.instances.findIdx? State.busy with
  | none => exact absurd hb (by simp [List.findIdx?_eq_none_iff.1 hfind s (List.mem_of_getElem? hs)])
  | some j =>
    obtain ⟨hj, hbusy, -⟩ := List.findIdx?_eq_some_iff_getElem.1 hfind
    exact ⟨j, hj, by simp only [nextEvent, hev, hfind, Option.map_some], hbusy⟩

/-- R151: a completion leaves one busy engine less. -/
theorem countP_busy_setInstance_complete (hj : j < y.instances.length) (hb : y.instances[j].busy = true) :
    (y.popEvent.setInstance j (complete (setDraws y.draws y.instances[j]))).instances.countP State.busy + 1 =
      y.instances.countP State.busy := by
  have hdone : (complete (setDraws y.draws y.instances[j])).busy = false := (not_busy_iff _).2 (complete_infl _)
  have hpos : 0 < y.instances.countP State.busy := List.countP_pos_iff.2 ⟨_, List.getElem_mem hj, hb⟩
  rw [instances_setInstance, instances_popEvent, List.countP_set hj, hb, hdone, if_pos rfl, if_neg Bool.false_ne_true]
  omega

end

section
variable (p : Profile) (dig : Words8) (digs : List Words8) {k : Nat} {f : InFlight}

/-- R228: when the events have run out, the turn of engine `k` comes within as many steps as there are busy engines. -/
theorem reachesWithin_of_drained {y : System} {n : Nat} (hev : y.events = []) (hn : y.instances.countP State.busy ≤ n)
    (hk : y.InFlightAt k f) : ReachesWithin (rowCore p dig digs) n y (AboutToComplete k f) := by
  obtain ⟨j, hj, hnext, hb⟩ := exists_nextEvent_of_drained hev hk
  by_cases hjk : j = k
  · exact .here ⟨hk, hjk ▸ hnext⟩
  · have hcount := countP_busy_setInstance_complete hj hb
    obtain ⟨n, rfl⟩ : ∃ m, n = m + 1 := Nat.exists_eq_add_one.2 (by omega)
    exact .of_step (step_of_core hnext (List.getElem?_eq_getElem hj))
      (reachesWithin_of_drained (by simp [hev]) (by omega) (hk.setInstance fun h => absurd h hjk))
termination_by n

/-- R228: the turn of engine `k` comes within as many steps as there are events and engines. -/
theorem reachesWithin_aboutToComplete {y : System}
    (hc : ∀ e ∈ y.events, e.inContract y.instances.length = true ∧ e ≠ .reset k) (hk : y.InFlightAt k f) :
    ReachesWithin (rowCore p dig digs) (y.events.length + y.instances.length) y (AboutToComplete k f) := by
  induction hev : y.events generalizing y with
  | nil => exact reachesWithin_of_drained p dig digs hev (Nat.le_add_left_of_le List.countP_le_length) hk
  | cons e es ih =>
    obtain ⟨⟨he, hreset⟩, hes⟩ := List.forall_mem_cons.1 (hev ▸ hc)
    by_cases hcore : e = .core k
    · exact .here ⟨hk, hcore ▸ nextEvent_cons hev⟩
    · obtain ⟨z, hstep, hzev, hzlen, hzk⟩ := exists_step_of_inContract hev he hcore hreset hk
      rw [← hzlen] at hes ⊢
      rw [List.length_cons, Nat.add_right_comm]
      exact .of_step hstep (ih (hzev ▸ hes) hzk hzev)

end

end System

/-- Settles O60: the row in which the engine's turn has come is reached, and its step is the completion there. -/
theorem rowCommandInFlightCompletes : Obligations.RowCommandInFlightCompletes := by
  intro p dig digs y k s hc hs hi
  obtain ⟨f, hf⟩ := Option.ne_none_iff_exists'.1 hi
  obtain ⟨m, (z : System), hm, hrun, ⟨t, ht, htf⟩, hnext⟩ := System.reachesWithin_aboutToComplete p dig digs hc ⟨s, hs, hf⟩
  have hlt : k < z.instances.length := (List.getElem?_eq_some_iff.1 ht).1
  exact ⟨m, z, t, _, complete (setDraws z.draws t), hm, hrun, ht, htf.trans hf.symm, hnext,
    System.step_of_core hnext ht, by simp [hlt], complete_infl _⟩

end Sys2Proof.Machine
end
